-- ==== Sys2Proof/Word.lean ====
section
/-! DEFINITION. The words the block works on: bytes, byte sequences and the 48-bit command word
(00_scope.md R7, R9; 30_encoding.md R40). -/

namespace Sys2Proof

/-- A byte is 8 bits (R7). -/
abbrev Byte := BitVec 8

/-- A finite sequence of bytes, indexed from 0 (R9). -/
abbrev Bytes := List Byte

/-- A command is one 48-bit word `W`: `opc = W[47:40]`, `arg = W[39:0]` (R40). -/
abbrev CommandWord := BitVec 48

/-- The 40-bit argument of a command word (R40), and the width of `DOUT` (R16). -/
abbrev Word40 := BitVec 40

end Sys2Proof
end

