-- ==== Sys2Proof/Syntax.lean ====
section
/-! DEFINITION. The 24 commands of the block, one constructor per row of spec/opcode_table.json (30_encoding.md R42),
with the operands of R41 at the width their field has. -/

namespace Sys2Proof

/-- The operand forms of R41. -/
inductive Form where
  | n   -- no operand
  | b   -- one byte
  | hl  -- two bytes
  | t   -- three bytes
  | v   -- a 32-bit value
  | d   -- five bytes
  deriving DecidableEq, Repr

/-- A command with its operands (R42). -/
inductive Instr where
  | reset
  | clrerr
  | rdstat
  | rdlen (sel : Byte)
  | nibenc (b : Byte)
  | nibdec (hi lo : Byte)
  | pack (v : BitVec 32)
  | unpack (d4 d3 d2 d1 d0 : Byte)
  | txbegin (id : Byte)
  | txbyte (b : Byte)
  | txpath (c : Byte)
  | txint (v : BitVec 32)
  | txnib (b : Byte)
  | txck
  | txend
  | txsend
  | rdtx (idx : BitVec 32)
  | rxrecv
  | rxvalhdr (id cat op : Byte)
  | rxack (id cat op : Byte)
  | rxchk
  | rxdecode
  | rdrx (idx : BitVec 32)
  | rdd (idx : BitVec 32)
  deriving DecidableEq, Repr

end Sys2Proof
end

