-- ==== Sys2Proof/Config.lean ====
section
/-! DEFINITION. What an implementation fixes (00_scope.md R6; 93_implementation_defined.md P1 to P8), the constants
the spec gives a value, and the free values. A free value is an opaque constant: nothing can be proved of which value it is. -/

namespace Sys2Proof

/-- The parameters of one instance of the block (R6). A 7-bit field holds a byte of 0..127, the bound R6 gives.
Capacities: `none` is unbounded (P6, P7). `rxDeadline` says whether `RX_DEADLINE` is configured; the spec gives it
no unit and no value (P8, D12). -/
structure Params where
  vendor0 : BitVec 7
  vendor1 : BitVec 7
  vendor2 : BitVec 7
  vendor3 : BitVec 7
  catFile : BitVec 7
  catGetcfg : BitVec 7
  catNewcfg : BitVec 7
  catLoadcfg : BitVec 7
  opbGetcfg : List (BitVec 7)
  opbNewcfg : List (BitVec 7)
  opbLoadcfg : List (BitVec 7)
  getcfgOffset : Nat
  txcap : Option Nat
  rxcap : Option Nat
  dcap : Option Nat
  rxDeadline : Bool
  deriving DecidableEq, Repr

/-- The bounds that the types of the fields do not carry: the category markers are distinct (R6, R58, P3), `GETCFG_OFFSET`
is at least 7 (P5) and `TXCAP` at least 9 (P6; 41_tx_builder.md R78). -/
structure Params.Ok (p : Params) : Prop where
  distinct : [p.catFile, p.catGetcfg, p.catNewcfg, p.catLoadcfg].Nodup
  offset : 7 ≤ p.getcfgOffset
  txcap : ∀ c, p.txcap = some c → 9 ≤ c

namespace Config

/-! ## Constants with a value (R6) -/

/-- `SOX`, start framing marker. -/
def sox : Byte := 0xF0#8
/-- `EOX`, end framing marker. -/
def eox : Byte := 0xF7#8
/-- `OP_DOWNLOAD`. -/
def opDownload : Byte := 2#8
/-- `OP_UPLOAD`. -/
def opUpload : Byte := 4#8
/-- `OP_RESCAN`. -/
def opRescan : Byte := 8#8
/-- `STATUS_OK`, the status byte of a good response. -/
def statusOk : Byte := 0#8
/-- `CK_START`, index of the first byte the checksum covers. -/
def ckStart : Nat := 6
/-- `MODULUS`, the checksum modulus. -/
def modulus : Nat := 128
/-- `CHUNK_MAX`, largest Upload chunk in data bytes (host side). -/
def chunkMax : Nat := 512
/-- `PATH_TERM`, the path terminator of an Upload request. -/
def pathTerm : Byte := 0#8

/-! ## Parameters without a value (R6: OPEN) -/

/-- `PREFIX[0]` of this machine (log entry 2). -/
opaque vendor0 : BitVec 7
/-- `PREFIX[1]` of this machine (log entry 2). -/
opaque vendor1 : BitVec 7
/-- `PREFIX[2]` of this machine (log entry 2). -/
opaque vendor2 : BitVec 7
/-- `PREFIX[3]` of this machine (log entry 2). -/
opaque vendor3 : BitVec 7
/-- The category markers of this machine are the first four values of this arrangement of the 7-bit values: any four
distinct ones (R6, R58, P3; log entry 2). -/
opaque markers : Equiv.Perm (BitVec 7)
/-- `OPB_GETCFG` of this machine (30_encoding.md R58, log entry 2). -/
opaque opbGetcfg : List (BitVec 7)
/-- `OPB_NEWCFG` of this machine (30_encoding.md R58, log entry 2). -/
opaque opbNewcfg : List (BitVec 7)
/-- `OPB_LOADCFG` of this machine (30_encoding.md R58, log entry 2). -/
opaque opbLoadcfg : List (BitVec 7)
/-- How far `GETCFG_OFFSET` lies above 7, its least value (P5, log entry 2). -/
opaque getcfgOffsetAbove7 : Nat

/-- The parameters of the machine that `State.reset` describes: the OPEN ones opaque, the capacities and the deadline at
the spec's default, unbounded and absent (R6, P6 to P8; log entries 2 and 3). -/
def params : Params where
  vendor0 := vendor0
  vendor1 := vendor1
  vendor2 := vendor2
  vendor3 := vendor3
  catFile := markers 0
  catGetcfg := markers 1
  catNewcfg := markers 2
  catLoadcfg := markers 3
  opbGetcfg := opbGetcfg
  opbNewcfg := opbNewcfg
  opbLoadcfg := opbLoadcfg
  getcfgOffset := 7 + getcfgOffsetAbove7
  txcap := none
  rxcap := none
  dcap := none
  rxDeadline := false

/-! ## Free values -/

/-- Whether the channel accepts the message of a `send` call that `State.sendAnswers` lists no answer for
(43_channel.md R89: `send` is always answered at once; log entry 4). -/
opaque sendAccepts : Nat → Bool

/-- What `DOUT` reads after a command that returns a length of 2^40 or more, which does not fit it (U7; log entry 9). -/
opaque wideLength : Nat → Word40

/-- What `trim` makes of a path; the spec does not say what it removes (N4, U9; log entry 16). -/
opaque trim : Bytes → Bytes

/-- The base name of a local path; it is the host's file system's (45_host_sequences.md R108; N22; log entry 16). -/
opaque basename : Bytes → Bytes

end Config

end Sys2Proof
end

