-- ==== Sys2Proof/Machine/Operands.lean ====
section
/-! DEFINITION. Operand domains (60_exceptions.md R130, R122), byte lanes of `arg` and `DOUT` (20_memory.md R36 item 6)
and capacities (00_scope.md R6). -/

namespace Sys2Proof.Machine

/-- A 7-bit-safe byte: its value is in 0..127 (R7). -/
def sevenBitSafe (b : Byte) : Bool := b.toNat ≤ 127

/-- A byte that holds a nibble: its value is in 0..15 (R63). -/
def isNibble (b : Byte) : Bool := b.toNat ≤ 15

/-- A character of a remote path: not 0 and at most 127 (41_tx_builder.md R72). -/
def pathChar (c : Byte) : Bool := c.toNat ≠ 0 && c.toNat ≤ 127

/-- Five digits in the domain of `unpackInteger`: the top one at most 15, the others at most 127 (R67, R69). -/
def digitsInDomain (d4 d3 d2 d1 d0 : Byte) : Bool :=
  d4.toNat ≤ 15 && sevenBitSafe d3 && sevenBitSafe d2 && sevenBitSafe d1 && sevenBitSafe d0

/-- The expected values of RXVALHDR and RXACK are all 7-bit-safe (R80, R81). -/
def expectedInDomain (id cat op : Byte) : Bool :=
  sevenBitSafe id && sevenBitSafe cat && sevenBitSafe op

/-- A sequence of bytes as one number, the first byte in the highest lane (R36 item 6). -/
def lanesNat (s : Bytes) : Nat := s.foldl (fun acc b => acc * 256 + b.toNat) 0

/-- A sequence of at most five bytes laid in `DOUT`, most significant byte first (R36 item 6, R16). -/
def lanes (s : Bytes) : Word40 := BitVec.ofNat 40 (lanesNat s)

/-- A 7-bit parameter as a byte of a message (R6). -/
def byteOf7 (b : BitVec 7) : Byte := b.setWidth 8

/-- `n` bytes fit a buffer of this capacity; `none` is unbounded (R6). -/
def withinCapacity (capacity : Option Nat) (n : Nat) : Bool :=
  match capacity with
  | none => true
  | some c => n ≤ c

end Sys2Proof.Machine
end

