-- ==== Sys2Proof/WellFormed.lean ====
section
/-! DEFINITION. What makes a command word legal in its argument bits (30_encoding.md R41, R43), and what makes a command's
operands lie in their domain whatever the state (60_exceptions.md R130 and, for TXPATH, R122). A legal word with an operand
outside its domain is still a command (R43): it decodes, and its meaning raises the error its rule names. -/

namespace Sys2Proof

/-- Every bit of `arg` above the form's operands is 0 (R41, R43). -/
def Form.unusedZero (f : Form) (arg : Word40) : Bool :=
  match f with
  | .n => arg == 0#40
  | .b => arg.extractLsb' 8 32 == 0#32
  | .hl => arg.extractLsb' 16 24 == 0#24
  | .t => arg.extractLsb' 24 16 == 0#16
  | .v => arg.extractLsb' 32 8 == 0#8
  | .d => true

/-- The operands of a command lie in the domain its rule gives them, as far as the operands alone decide it
(R130, R122). An index operand is compared with a buffer's length, which is state: it is not judged here. -/
def Instr.inDomain (i : Instr) : Bool :=
  match i with
  | .reset => true
  | .clrerr => true
  | .rdstat => true
  | .rdlen sel => sel.toNat ≤ 2
  | .nibenc _ => true
  | .nibdec hi lo => Machine.isNibble hi && Machine.isNibble lo
  | .pack _ => true
  | .unpack d4 d3 d2 d1 d0 => Machine.digitsInDomain d4 d3 d2 d1 d0
  | .txbegin id => Machine.sevenBitSafe id
  | .txbyte b => Machine.sevenBitSafe b
  | .txpath c => Machine.pathChar c
  | .txint _ => true
  | .txnib _ => true
  | .txck => true
  | .txend => true
  | .txsend => true
  | .rdtx _ => true
  | .rxrecv => true
  | .rxvalhdr id cat op => Machine.expectedInDomain id cat op
  | .rxack id cat op => Machine.expectedInDomain id cat op
  | .rxchk => true
  | .rxdecode => true
  | .rdrx _ => true
  | .rdd _ => true

end Sys2Proof
end

