-- ==== Sys2Proof/Decode.lean ====
section
/-! DEFINITION. The command word (30_encoding.md R40 to R43): fields, the decoder, total on every 48-bit word and rejecting
by name, the encoder, and the opcode table's `match` and `mask` columns. -/

namespace Sys2Proof

/-- Why a word is an illegal command (R43). Both reasons raise `IllegalCommand` (60_exceptions.md R128). -/
inductive IllegalWord where
  /-- `opc` is not in the table of R42. -/
  | unknownOpcode (opc : BitVec 8)
  /-- `arg` has a 1 in a bit that the command's form requires to be 0. -/
  | unusedBitsSet (opc : BitVec 8)
  deriving DecidableEq, Repr

/-- What the decoder answers: a command, or the word is illegal and why. -/
inductive Decoded where
  | command (i : Instr)
  | illegal (why : IllegalWord)
  deriving DecidableEq, Repr

/-! ## Fields of the word (R40, R41) -/

/-- `opc = W[47:40]` (R40). -/
def opcField (w : CommandWord) : BitVec 8 := w.extractLsb' 40 8
/-- `arg = W[39:0]` (R40). -/
def argField (w : CommandWord) : Word40 := w.extractLsb' 0 40
/-- Byte lane `k` of `arg`: `arg[8k+7:8k]` (R41). -/
def lane (k : Nat) (arg : Word40) : Byte := arg.extractLsb' (8 * k) 8
/-- `arg[31:0]` (R41, form V). -/
def valueField (arg : Word40) : BitVec 32 := arg.extractLsb' 0 32

/-! ## The decoder (R42, R43) -/

/-- The command of an opcode with the operands that stand in `arg`, and its form (R41, R42); no value for an opcode that is
not in the table. -/
def commandOf (opc : BitVec 8) (arg : Word40) : Option (Form × Instr) :=
  match opc with
  | 0x01#8 => some (.n, .reset)
  | 0x02#8 => some (.n, .clrerr)
  | 0x03#8 => some (.n, .rdstat)
  | 0x04#8 => some (.b, .rdlen (lane 0 arg))
  | 0x10#8 => some (.b, .nibenc (lane 0 arg))
  | 0x11#8 => some (.hl, .nibdec (lane 1 arg) (lane 0 arg))
  | 0x12#8 => some (.v, .pack (valueField arg))
  | 0x13#8 => some (.d, .unpack (lane 4 arg) (lane 3 arg) (lane 2 arg) (lane 1 arg) (lane 0 arg))
  | 0x20#8 => some (.b, .txbegin (lane 0 arg))
  | 0x21#8 => some (.b, .txbyte (lane 0 arg))
  | 0x22#8 => some (.b, .txpath (lane 0 arg))
  | 0x23#8 => some (.v, .txint (valueField arg))
  | 0x24#8 => some (.b, .txnib (lane 0 arg))
  | 0x25#8 => some (.n, .txck)
  | 0x26#8 => some (.n, .txend)
  | 0x27#8 => some (.n, .txsend)
  | 0x28#8 => some (.v, .rdtx (valueField arg))
  | 0x30#8 => some (.n, .rxrecv)
  | 0x31#8 => some (.t, .rxvalhdr (lane 2 arg) (lane 1 arg) (lane 0 arg))
  | 0x32#8 => some (.t, .rxack (lane 2 arg) (lane 1 arg) (lane 0 arg))
  | 0x33#8 => some (.n, .rxchk)
  | 0x34#8 => some (.n, .rxdecode)
  | 0x35#8 => some (.v, .rdrx (valueField arg))
  | 0x36#8 => some (.v, .rdd (valueField arg))
  | _ => none

/-- The command that an opcode and an argument make, if the argument bits its form does not use are 0 (R42, R43). -/
def decodeFields (opc : BitVec 8) (arg : Word40) : Decoded :=
  match commandOf opc arg with
  | none => .illegal (.unknownOpcode opc)
  | some (f, i) => if f.unusedZero arg then .command i else .illegal (.unusedBitsSet opc)

/-- Decode one command word (R40). -/
def decode (w : CommandWord) : Decoded := decodeFields (opcField w) (argField w)

/-- The instruction that the decoder reads from an instruction whose bits are `w`, numbered as spec/opcode_table.json
numbers them; the host presents the one 48-bit word whole (R40), so no byte order enters. -/
def decodeTableWord (nbits w : Nat) : Option Instr :=
  match decode (BitVec.ofNat 48 (w % 2 ^ nbits)) with
  | .command i => some i
  | .illegal _ => none

/-! ## The encoder -/

/-- The opcode of a command (R42). -/
def Instr.opcode (i : Instr) : BitVec 8 :=
  match i with
  | .reset => 0x01#8
  | .clrerr => 0x02#8
  | .rdstat => 0x03#8
  | .rdlen _ => 0x04#8
  | .nibenc _ => 0x10#8
  | .nibdec _ _ => 0x11#8
  | .pack _ => 0x12#8
  | .unpack _ _ _ _ _ => 0x13#8
  | .txbegin _ => 0x20#8
  | .txbyte _ => 0x21#8
  | .txpath _ => 0x22#8
  | .txint _ => 0x23#8
  | .txnib _ => 0x24#8
  | .txck => 0x25#8
  | .txend => 0x26#8
  | .txsend => 0x27#8
  | .rdtx _ => 0x28#8
  | .rxrecv => 0x30#8
  | .rxvalhdr _ _ _ => 0x31#8
  | .rxack _ _ _ => 0x32#8
  | .rxchk => 0x33#8
  | .rxdecode => 0x34#8
  | .rdrx _ => 0x35#8
  | .rdd _ => 0x36#8

/-- The form of a command (R42). -/
def Instr.form (i : Instr) : Form :=
  match i with
  | .reset => .n
  | .clrerr => .n
  | .rdstat => .n
  | .rdlen _ => .b
  | .nibenc _ => .b
  | .nibdec _ _ => .hl
  | .pack _ => .v
  | .unpack _ _ _ _ _ => .d
  | .txbegin _ => .b
  | .txbyte _ => .b
  | .txpath _ => .b
  | .txint _ => .v
  | .txnib _ => .b
  | .txck => .n
  | .txend => .n
  | .txsend => .n
  | .rdtx _ => .v
  | .rxrecv => .n
  | .rxvalhdr _ _ _ => .t
  | .rxack _ _ _ => .t
  | .rxchk => .n
  | .rxdecode => .n
  | .rdrx _ => .v
  | .rdd _ => .v

/-- `arg` of form B: one byte (R41). -/
def argB (b : Byte) : Word40 := 0#32 ++ b
/-- `arg` of form HL: `hi = arg[15:8]`, `lo = arg[7:0]` (R41). -/
def argHL (hi lo : Byte) : Word40 := 0#24 ++ (hi ++ lo)
/-- `arg` of form T: `id = arg[23:16]`, `cat = arg[15:8]`, `op = arg[7:0]` (R41). -/
def argT (id cat op : Byte) : Word40 := 0#16 ++ (id ++ (cat ++ op))
/-- `arg` of form V: `v = arg[31:0]` (R41). -/
def argV (v : BitVec 32) : Word40 := 0#8 ++ v
/-- `arg` of form D: `d4` in the highest lane (R41). -/
def argD (d4 d3 d2 d1 d0 : Byte) : Word40 := d4 ++ (d3 ++ (d2 ++ (d1 ++ d0)))

/-- The argument of a command (R41, R42). -/
def Instr.argument (i : Instr) : Word40 :=
  match i with
  | .reset => 0#40
  | .clrerr => 0#40
  | .rdstat => 0#40
  | .rdlen sel => argB sel
  | .nibenc b => argB b
  | .nibdec hi lo => argHL hi lo
  | .pack v => argV v
  | .unpack d4 d3 d2 d1 d0 => argD d4 d3 d2 d1 d0
  | .txbegin id => argB id
  | .txbyte b => argB b
  | .txpath c => argB c
  | .txint v => argV v
  | .txnib b => argB b
  | .txck => 0#40
  | .txend => 0#40
  | .txsend => 0#40
  | .rdtx idx => argV idx
  | .rxrecv => 0#40
  | .rxvalhdr id cat op => argT id cat op
  | .rxack id cat op => argT id cat op
  | .rxchk => 0#40
  | .rxdecode => 0#40
  | .rdrx idx => argV idx
  | .rdd idx => argV idx

/-- The command word of an instruction: `opc` in bits 47:40, `arg` in bits 39:0 (R40). -/
def encode (i : Instr) : CommandWord := i.opcode ++ i.argument

/-! ## The opcode table (spec/opcode_table.json; R42) -/

/-- A row of the opcode table: a word is of this row iff its bits under `mask` are those of `pattern`. -/
structure OpcodeRow where
  mnemonic : String
  pattern : CommandWord
  mask : CommandWord
  deriving DecidableEq, Repr

/-- The rows of spec/opcode_table.json with their `match` and `mask` columns as printed there. -/
def opcodeTable : List OpcodeRow :=
  [⟨"RESET", 0x010000000000#48, 0xFFFFFFFFFFFF#48⟩,
   ⟨"CLRERR", 0x020000000000#48, 0xFFFFFFFFFFFF#48⟩,
   ⟨"RDSTAT", 0x030000000000#48, 0xFFFFFFFFFFFF#48⟩,
   ⟨"RDLEN", 0x040000000000#48, 0xFFFFFFFFFF00#48⟩,
   ⟨"NIBENC", 0x100000000000#48, 0xFFFFFFFFFF00#48⟩,
   ⟨"NIBDEC", 0x110000000000#48, 0xFFFFFFFF0000#48⟩,
   ⟨"PACK", 0x120000000000#48, 0xFFFF00000000#48⟩,
   ⟨"UNPACK", 0x130000000000#48, 0xFF0000000000#48⟩,
   ⟨"TXBEGIN", 0x200000000000#48, 0xFFFFFFFFFF00#48⟩,
   ⟨"TXBYTE", 0x210000000000#48, 0xFFFFFFFFFF00#48⟩,
   ⟨"TXPATH", 0x220000000000#48, 0xFFFFFFFFFF00#48⟩,
   ⟨"TXINT", 0x230000000000#48, 0xFFFF00000000#48⟩,
   ⟨"TXNIB", 0x240000000000#48, 0xFFFFFFFFFF00#48⟩,
   ⟨"TXCK", 0x250000000000#48, 0xFFFFFFFFFFFF#48⟩,
   ⟨"TXEND", 0x260000000000#48, 0xFFFFFFFFFFFF#48⟩,
   ⟨"TXSEND", 0x270000000000#48, 0xFFFFFFFFFFFF#48⟩,
   ⟨"RDTX", 0x280000000000#48, 0xFFFF00000000#48⟩,
   ⟨"RXRECV", 0x300000000000#48, 0xFFFFFFFFFFFF#48⟩,
   ⟨"RXVALHDR", 0x310000000000#48, 0xFFFFFF000000#48⟩,
   ⟨"RXACK", 0x320000000000#48, 0xFFFFFF000000#48⟩,
   ⟨"RXCHK", 0x330000000000#48, 0xFFFFFFFFFFFF#48⟩,
   ⟨"RXDECODE", 0x340000000000#48, 0xFFFFFFFFFFFF#48⟩,
   ⟨"RDRX", 0x350000000000#48, 0xFFFF00000000#48⟩,
   ⟨"RDD", 0x360000000000#48, 0xFFFF00000000#48⟩]

/-- The row that a word belongs to, if any. -/
def rowOf (w : CommandWord) : Option OpcodeRow := opcodeTable.find? (fun r => w &&& r.mask == r.pattern)

/-- The mnemonic of a command, as spec/opcode_table.json spells it (R42). -/
def Instr.mnemonic (i : Instr) : String :=
  match i with
  | .reset => "RESET"
  | .clrerr => "CLRERR"
  | .rdstat => "RDSTAT"
  | .rdlen _ => "RDLEN"
  | .nibenc _ => "NIBENC"
  | .nibdec _ _ => "NIBDEC"
  | .pack _ => "PACK"
  | .unpack _ _ _ _ _ => "UNPACK"
  | .txbegin _ => "TXBEGIN"
  | .txbyte _ => "TXBYTE"
  | .txpath _ => "TXPATH"
  | .txint _ => "TXINT"
  | .txnib _ => "TXNIB"
  | .txck => "TXCK"
  | .txend => "TXEND"
  | .txsend => "TXSEND"
  | .rdtx _ => "RDTX"
  | .rxrecv => "RXRECV"
  | .rxvalhdr _ _ _ => "RXVALHDR"
  | .rxack _ _ _ => "RXACK"
  | .rxchk => "RXCHK"
  | .rxdecode => "RXDECODE"
  | .rdrx _ => "RDRX"
  | .rdd _ => "RDD"

end Sys2Proof
end

