-- ==== Sys2Proof/Machine/CodecFunctions.lean ====
section
/-! DEFINITION. The pure functions of 40_codec_functions.md: checksum (R60, R61), nibble coding (R62, R63), packed integer
(R66, R67). They read no state. -/

namespace Sys2Proof.Machine

/-- The unbounded sum of the elements (00_scope.md R10). -/
def sumBytes (s : Bytes) : Nat := (s.map BitVec.toNat).sum

/-- `sum7(s) = sum(s) mod 128` (R60). -/
def sum7 (s : Bytes) : Nat := sumBytes s % Config.modulus

/-- The byte that completes an accumulated sum to a multiple of 128: `(128 - acc) mod 128` (R61, R75, R76). -/
def checksumOfSum (acc : Nat) : Byte := BitVec.ofNat 8 ((Config.modulus - acc) % Config.modulus)

/-- `checksum(s)` (R61). -/
def checksum (s : Bytes) : Byte := checksumOfSum (sum7 s)

/-- `TXACC <- (TXACC + sum(s)) mod 128` (41_tx_builder.md R79). -/
def accumulate (acc : BitVec 7) (s : Bytes) : BitVec 7 :=
  BitVec.ofNat 7 ((acc.toNat + sumBytes s) % Config.modulus)

/-- The high nibble of a byte, `b >> 4` (R62). -/
def nibbleHi (b : Byte) : Byte := b >>> 4

/-- The low nibble of a byte, `b & 0x0F` (R62). -/
def nibbleLo (b : Byte) : Byte := b &&& 0x0F#8

/-- `nibbleEncode(b)` in wire order: high nibble first (R62; 20_memory.md R36 item 3). -/
def nibbleEncode (b : Byte) : Bytes := [nibbleHi b, nibbleLo b]

/-- `nibbleDecode(hi, lo) = (hi << 4) | lo`; it has no value when one of them is above 15 (R63). -/
def nibbleDecode (hi lo : Byte) : Option Byte :=
  if isNibble hi && isNibble lo then some (hi <<< 4 ||| lo) else none

/-- Every byte nibble-encoded, in order: `nib(chunk)` of 30_encoding.md R56. -/
def nibbleEncodeAll (s : Bytes) : Bytes := s.flatMap nibbleEncode

/-- Pairs taken from the front and nibble-decoded; no value for an odd length or a byte above 15 (42_rx_validator.md R83). -/
def nibbleDecodeAll (s : Bytes) : Option Bytes :=
  match s with
  | [] => some []
  | [_] => none
  | hi :: lo :: rest =>
    match nibbleDecode hi lo, nibbleDecodeAll rest with
    | some b, some bs => some (b :: bs)
    | _, _ => none

/-- Digit `(v >> n) & mask` of a packed integer (R66). -/
def packDigit (v : BitVec 32) (n : Nat) (mask : Byte) : Byte := (v >>> n).setWidth 8 &&& mask

/-- `packInteger(v)`: five base-128 digits, most significant first, the top one masked to 4 bits (R66). -/
def packInteger (v : BitVec 32) : Bytes :=
  [packDigit v 28 0x0F#8, packDigit v 21 0x7F#8, packDigit v 14 0x7F#8, packDigit v 7 0x7F#8, packDigit v 0 0x7F#8]

/-- `unpackInteger` of five digits; it has no value outside its domain (R67). -/
def unpackInteger (d4 d3 d2 d1 d0 : Byte) : Option Nat :=
  if digitsInDomain d4 d3 d2 d1 d0 then
    some (d4.toNat * 2 ^ 28 + d3.toNat * 2 ^ 21 + d2.toNat * 2 ^ 14 + d1.toNat * 2 ^ 7 + d0.toNat)
  else none

end Sys2Proof.Machine
end

