-- ==== Sys2Proof/Machine/State.lean ====
section
/-! DEFINITION. The state of the machine: the record of 10_state.md R13, the parameters of the block's implementation, and
what the outside world will present (the host's words, the channel's answers), as plain data. -/

namespace Sys2Proof.Machine

/-- `TXST`, the phase of the transmit builder (10_state.md R18). `opened` is the spec's `OPEN`. -/
inductive Phase where
  | idle
  | opened
  | sealed
  deriving DecidableEq, Repr

/-- An event of `TRACE` (10_state.md R25). -/
inductive Event where
  | sent (m : Bytes)
  | received (m : Bytes)
  | sendFailed
  | recvFailed
  | recvDeadline
  deriving DecidableEq, Repr

/-- The channel's answer to `send` (00_scope.md R9): `SendOk` or `SendClosed`. -/
inductive SendAnswer where
  | ok
  | closed
  deriving DecidableEq, Repr

/-- The channel's answer to `receive` (00_scope.md R9): `RecvMsg(m)`, `RecvClosed`, `RecvDeadline`, or no answer.
`silent` is no answer during one step of the machine: the block goes on waiting and asks again (log entry 5). -/
inductive RecvAnswer where
  | message (m : Bytes)
  | closed
  | deadline
  | silent
  deriving DecidableEq, Repr

/-- What the host presents to the block: a command word (30_encoding.md R40), or a pulse of the hardware reset input
(70_reset_and_hazards.md R140). -/
inductive HostInput where
  | command (w : CommandWord)
  | resetPin
  deriving DecidableEq, Repr

/-- Why the machine can stop with a fault: never. An error of the block is the result of a command, after which it takes
the next word (60_exceptions.md R126), the block never halts of itself (70_reset_and_hazards.md R142), and every command is
total on every state (93_implementation_defined.md section 1). So there is no constructor (log entry 10). -/
inductive Fault where
  deriving DecidableEq, Repr

/-- Why a step can be refused. -/
inductive Refusal where
  /-- Raised by an arm of `exec` whose instruction has no meaning yet; safe, nothing can be proved of such a step. No arm
  of this model answers it. -/
  | notModelled (mnemonic : String)
  deriving DecidableEq, Repr

/-- The state. The first eleven fields are the record of 10_state.md R13, in its order; `TXLEN`, `RXLEN`, `DLEN` are the
lengths of the buffers and `STATUS` is a view (R13, R24). The others are the model's: the parameters (00_scope.md R6), the
inputs of the step that the spec hands it from outside (R9, 10_state.md R26), the wait of RXRECV (43_channel.md R90) and
the counter of the free values. -/
structure State where
  /-- `DOUT` (R16). -/
  dout : Word40
  /-- `RC` (R17). -/
  rc : BitVec 8
  /-- `ERR` (R23): bit `k-1` is the flag of error `k`. -/
  err : BitVec 8
  /-- `TXST` (R18). -/
  txst : Phase
  /-- `TXBUF` (R19). -/
  txbuf : Bytes
  /-- `TXACC` (R20). -/
  txacc : BitVec 7
  /-- `RXVALID` (R21). -/
  rxvalid : Bool
  /-- `RXBUF` (R21). -/
  rxbuf : Bytes
  /-- `DVALID` (R22). -/
  dvalid : Bool
  /-- `DBUF` (R22). -/
  dbuf : Bytes
  /-- `TRACE` (R25). -/
  trace : List Event
  /-- The parameters of the implementation; nothing writes them (00_scope.md R6, 70_reset_and_hazards.md R141). -/
  params : Params
  /-- What the host will present, in order (log entry 1). -/
  inputs : List HostInput
  /-- The channel's answers to the coming `send` calls, in order (log entry 4). -/
  sendAnswers : List SendAnswer
  /-- The channel's answers to the coming `receive` calls, in order; past its end the channel is silent (log entry 5). -/
  recvAnswers : List RecvAnswer
  /-- An RXRECV is in progress and the channel has not answered it (R90, R140; log entry 6). -/
  waiting : Bool
  /-- The counter at which the next free value is taken (log entry 9). -/
  fresh : Nat
  deriving DecidableEq, Repr

/-- The machine right after reset: the table of 10_state.md R28 with `TRACE` as at power-on, nothing presented by the host
and nothing answered by the channel yet (log entries 1 to 6, 9). -/
def State.reset : State where
  dout := 0
  rc := 0
  err := 0
  txst := .idle
  txbuf := []
  txacc := 0
  rxvalid := false
  rxbuf := []
  dvalid := false
  dbuf := []
  trace := []
  params := Config.params
  inputs := []
  sendAnswers := []
  recvAnswers := []
  waiting := false
  fresh := 0

end Sys2Proof.Machine
end

