-- ==== Sys2Proof/Machine/Flags.lean ====
section
/-! DEFINITION. Result codes and sticky error flags (60_exceptions.md R120; 10_state.md R23) and the `STATUS` view
(10_state.md R24). The block has no arithmetic flags (R23). -/

namespace Sys2Proof.Machine

/-- The error kinds of R120. -/
inductive ErrKind where
  | protocolMismatch
  | formatError
  | ioError
  | timeout
  | sequenceError
  | rangeError
  | illegalCommand
  | overflow
  deriving DecidableEq, Repr

/-- The result code of an error, 1 to 8 (R120). -/
def ErrKind.code (e : ErrKind) : BitVec 8 :=
  match e with
  | .protocolMismatch => 1#8
  | .formatError => 2#8
  | .ioError => 3#8
  | .timeout => 4#8
  | .sequenceError => 5#8
  | .rangeError => 6#8
  | .illegalCommand => 7#8
  | .overflow => 8#8

/-- The sticky flag of error `k`: bit `k-1` of `ERR` (R23, R120). -/
def ErrKind.flag (e : ErrKind) : BitVec 8 := 1#8 <<< (e.code.toNat - 1)

/-- `ERR` with the flag of an error set (R23, R126). -/
def setFlag (err : BitVec 8) (e : ErrKind) : BitVec 8 := err ||| e.flag

/-- `STATUS` bits 3:0 and the reserved bits 7:4, which read 0 (R24). -/
def statusLow (s : State) : BitVec 8 :=
  0#4 ++ BitVec.ofBool s.dvalid ++ BitVec.ofBool s.rxvalid ++ BitVec.ofBool (s.txst == .sealed) ++
    BitVec.ofBool (s.txst == .opened)

/-- The 16-bit `STATUS` view: `ERR` in bits 15:8 over the valid bits and the phase (R24). -/
def status (s : State) : BitVec 16 := s.err ++ statusLow s

end Sys2Proof.Machine
end

