-- ==== Sys2Proof/Machine/Ops.lean ====
section
/-! DEFINITION. The named operations over the state: how a command ends (00_scope.md R10; 60_exceptions.md R126), the byte
memories (20_memory.md R33 to R35), the append step of the builder (41_tx_builder.md R78, R79), the channel
(43_channel.md R88, R90) and reset (44_system.md R92; 70_reset_and_hazards.md R140). -/

namespace Sys2Proof.Machine

/-! ## How a command ends -/

/-- `raise E`: `RC <- k`, `DOUT <- 0`, `ERR[k-1] <- 1`, and nothing else (R126). Nothing is entered, saved or masked, so
there is no return from it (R126, 44_system.md R96). -/
def raise (e : ErrKind) (s : State) : State :=
  { s with rc := e.code, dout := 0, err := setFlag s.err e }

/-- `return v`: result code `OK` and value `v` (00_scope.md R10; 10_state.md R16, R17). -/
def ret (v : Word40) (s : State) : State :=
  { s with rc := 0, dout := v }

/-- `return n` of a length: a length below 2^40 fits `DOUT`; of a longer one the spec gives no value (U7), so `DOUT` is a
free value (log entry 9). -/
def retLength (n : Nat) (s : State) : State :=
  if n < 2 ^ 40 then ret (BitVec.ofNat 40 n) s
  else { ret (Config.wideLength s.fresh) s with fresh := s.fresh + 1 }

/-- A command that ends with `raise E` goes on to a next state: an error is a result, not a stop (R126). -/
def endRaise (e : ErrKind) (s : State) : Host.Outcome State Fault Refusal := .next (raise e s)

/-- A command that ends with `return v`. -/
def endOk (v : Word40) (s : State) : Host.Outcome State Fault Refusal := .next (ret v s)

/-- A command that ends by returning a length. -/
def endLength (n : Nat) (s : State) : Host.Outcome State Fault Refusal := .next (retLength n s)

/-- A byte as a value of `DOUT`: its low 8 bits (R16). -/
def byteValue (b : Byte) : Word40 := b.setWidth 40

/-! ## Byte memories (20_memory.md R33 to R35) -/

/-- The three address spaces (R33). -/
inductive Space where
  | tx
  | rx
  | d
  deriving DecidableEq, Repr

/-- The content of an address space (R33). -/
def buffer (sp : Space) (s : State) : Bytes :=
  match sp with
  | .tx => s.txbuf
  | .rx => s.rxbuf
  | .d => s.dbuf

/-- `MemRead(buf, i)`: the byte at index `i`; an index at or beyond the length addresses nothing (R33, R34). -/
def memRead (buf : Bytes) (i : Nat) : Option Byte := buf[i]?

/-- `Append(buf, s)` (R35). -/
def append (buf s : Bytes) : Bytes := buf ++ s

/-- `s[i..j]`, both ends included, empty when `j < i` (00_scope.md R10). -/
def slice (s : Bytes) (i j : Nat) : Bytes := (s.drop i).take (j + 1 - i)

/-- A byte memory as (address, byte) pairs from the given address up: the form in which two memories are compared
(log entry 11). -/
def cellsFrom (base : Nat) (buf : Bytes) : List Host.Cell :=
  match buf with
  | [] => []
  | b :: rest => (base, b) :: cellsFrom (base + 1) rest

/-- A byte memory as (address, byte) pairs, addresses from 0 (R33). -/
def cells (buf : Bytes) : List Host.Cell := cellsFrom 0 buf

/-- The canonical form of a memory of length `n`: its addresses are 0, 1, …, n-1, strictly rising with no gap (R33). -/
def Memory.wf (m : List Host.Cell) : Bool := m.map Prod.fst == List.range m.length

/-- What a (address, byte) list reads as at an address; an unlisted address reads as no value (R33, R34). -/
def cellRead (m : List Host.Cell) (a : Nat) : Option Byte := (m.find? (fun c => c.1 == a)).map Prod.snd

/-- The read of one byte by index as a command: `RangeError` at or beyond the length, else the byte
(R33; 41_tx_builder.md R77, 42_rx_validator.md R84, R85). -/
def readIndex (buf : Bytes) (idx : BitVec 32) (s : State) : Host.Outcome State Fault Refusal :=
  match memRead buf idx.toNat with
  | none => endRaise .rangeError s
  | some b => endOk (byteValue b) s

/-! ## The append step of the builder (41_tx_builder.md R78, R79) -/

/-- `txAppend(s)`, once the capacity check of R78 has left two bytes free: append and accumulate; no value when the bytes
would not fit (R79). -/
def txAppend (bs : Bytes) (s : State) : Option State :=
  if withinCapacity s.params.txcap (s.txbuf.length + bs.length + 2) then
    some { s with txbuf := append s.txbuf bs, txacc := accumulate s.txacc bs }
  else none

/-- The end of every append command: `txAppend`, `Overflow` if it does not fit, else `return TXLEN` (R71 to R74, R79). -/
def appendAndReturn (bs : Bytes) (s : State) : Host.Outcome State Fault Refusal :=
  match txAppend bs s with
  | none => endRaise .overflow s
  | some t => endLength t.txbuf.length t

/-! ## The channel (43_channel.md R88 to R91) -/

/-- The channel's answer to the `send` call made now: the next one listed, else a free one (R89, log entry 4). -/
def sendReply (s : State) : SendAnswer :=
  match s.sendAnswers with
  | a :: _ => a
  | [] => if Config.sendAccepts s.fresh then .ok else .closed

/-- The answer to a `send` call has been given (log entry 4). -/
def sendAsked (s : State) : State :=
  match s.sendAnswers with
  | _ :: rest => { s with sendAnswers := rest }
  | [] => { s with fresh := s.fresh + 1 }

/-- `TRACE <- TRACE ++ [e]` (10_state.md R25). -/
def record (e : Event) (s : State) : State := { s with trace := s.trace ++ [e] }

/-- The receive side emptied: no message and no decoded payload (R90, `Overflow`). -/
def emptyReceive (s : State) : State :=
  { s with rxbuf := [], rxvalid := false, dbuf := [], dvalid := false }

/-- A delivered message is held and the decoded payload of the one before is dropped (R90). -/
def holdMessage (m : Bytes) (s : State) : State :=
  { s with rxbuf := m, rxvalid := true, dbuf := [], dvalid := false }

/-- The block goes on waiting: no state of the spec's changes (R90 Waiting). -/
def keepWaiting (s : State) : State := { s with waiting := true }

/-- The end of an RXRECV by the channel's answer (R90). With no deadline configured a `deadline` is no answer
(R124, log entry 7). -/
def receiveAnswer (a : RecvAnswer) (s : State) : State :=
  match a with
  | .silent => keepWaiting s
  | .closed => raise .ioError (record .recvFailed { s with waiting := false })
  | .deadline =>
    if s.params.rxDeadline then raise .timeout (record .recvDeadline { s with waiting := false })
    else keepWaiting s
  | .message m =>
    let t := record (.received m) { s with waiting := false }
    if withinCapacity t.params.rxcap m.length then retLength m.length (holdMessage m t)
    else raise .overflow (emptyReceive t)

/-! ## Reset (44_system.md R92; 70_reset_and_hazards.md R140) -/

/-- Every element of 10_state.md R28 but `TRACE` at its reset value. The parameters are not reset (R28) and the channel is
not touched (R92, R140). -/
def resetRecord (s : State) : State :=
  { s with
    dout := 0, rc := 0, err := 0
    txbuf := [], txacc := 0, txst := .idle
    rxbuf := [], rxvalid := false
    dbuf := [], dvalid := false }

/-- The hardware reset input: the reset state, and a waiting RXRECV is over with no result (R140). `TRACE` is kept
(log entry 8). -/
def hardwareReset (s : State) : State := { resetRecord s with waiting := false }

end Sys2Proof.Machine
end

