-- ==== Sys2Proof/Machine/Channel.lean ====
section
/-! DEFINITION. The channel commands of 43_channel.md: TXSEND, RXRECV. -/

namespace Sys2Proof.Machine

/-- `TXSEND` (R88): hand the sealed message to the channel. The channel is asked only in phase `SEALED`. -/
def execTxsend (s : State) : Host.Outcome State Fault Refusal :=
  if s.txst ≠ .sealed then endRaise .sequenceError s
  else
    match sendReply s with
    | .closed => endRaise .ioError (record .sendFailed (sendAsked s))
    | .ok =>
      endLength s.txbuf.length
        { record (.sent s.txbuf) (sendAsked s) with txbuf := [], txacc := 0, txst := .idle }

/-- `RXRECV` (R90): take one message, or wait. It asks the channel, in every state. Past the end of the listed answers the
channel is silent. -/
def execRxrecv (s : State) : Host.Outcome State Fault Refusal :=
  match s.recvAnswers with
  | [] => .next (keepWaiting s)
  | a :: rest => .next (receiveAnswer a { s with recvAnswers := rest })

end Sys2Proof.Machine
end

