-- ==== Sys2Proof/Machine/Codec.lean ====
section
/-! DEFINITION. The codec commands of 40_codec_functions.md: NIBENC, NIBDEC, PACK, UNPACK. -/

namespace Sys2Proof.Machine

/-- `NIBENC b` (R64): `DOUT[15:8] = hi`, `DOUT[7:0] = lo`. -/
def execNibenc (b : Byte) (s : State) : Host.Outcome State Fault Refusal :=
  endOk (lanes (nibbleEncode b)) s

/-- `NIBDEC hi, lo` (R65): the byte, or `RangeError` outside the domain of `nibbleDecode`. -/
def execNibdec (hi lo : Byte) (s : State) : Host.Outcome State Fault Refusal :=
  match nibbleDecode hi lo with
  | none => endRaise .rangeError s
  | some b => endOk (byteValue b) s

/-- `PACK v` (R68): the five digits, the first wire byte in `DOUT[39:32]`. -/
def execPack (v : BitVec 32) (s : State) : Host.Outcome State Fault Refusal :=
  endOk (lanes (packInteger v)) s

/-- `UNPACK d4, d3, d2, d1, d0` (R69): the value, or `RangeError` outside the domain of `unpackInteger`. -/
def execUnpack (d4 d3 d2 d1 d0 : Byte) (s : State) : Host.Outcome State Fault Refusal :=
  match unpackInteger d4 d3 d2 d1 d0 with
  | none => endRaise .rangeError s
  | some v => endOk (BitVec.ofNat 40 v) s

end Sys2Proof.Machine
end

