-- ==== Sys2Proof/Machine/Messages.lean ====
section
/-! DEFINITION. The wire messages of 30_encoding.md R45 to R58: what the block builds, what it compares with, and what the
host expects from the device. -/

namespace Sys2Proof.Machine

/-- `PREFIX`, message bytes 1 to 4 (30_encoding.md R45). -/
def vendorBytes (p : Params) : Bytes :=
  [byteOf7 p.vendor0, byteOf7 p.vendor1, byteOf7 p.vendor2, byteOf7 p.vendor3]

/-- `[SOX] ++ PREFIX ++ [id]`, the six bytes before the category marker (R45; 41_tx_builder.md R70). -/
def messageStart (p : Params) (id : Byte) : Bytes := Config.sox :: vendorBytes p ++ [id]

/-- `header(id, cat, op)`, the 9 bytes of an acceptable response (R52). -/
def header (p : Params) (id cat op : Byte) : Bytes := messageStart p id ++ [cat, Config.statusOk, op]

/-- `ackTemplate(id, cat, op)`, 10 bytes with no checksum (R53). -/
def ackTemplate (p : Params) (id cat op : Byte) : Bytes := header p id cat op ++ [Config.eox]

/-- A message the block builds around a body, the bytes from the category marker on: start, body, checksum, end marker
(R45, R46, R47). -/
def builtMessage (p : Params) (id : Byte) (body : Bytes) : Bytes :=
  messageStart p id ++ body ++ [checksum body, Config.eox]

/-- The body of a Rescan request (R57). -/
def rescanBody (p : Params) : Bytes := [byteOf7 p.catFile, Config.opRescan]

/-- The body of a Download request: no path terminator (R54). -/
def downloadBody (p : Params) (path : Bytes) : Bytes := [byteOf7 p.catFile, Config.opDownload] ++ path

/-- `createFlag`: 1 iff the offset is 0 (R56; 45_host_sequences.md R100). -/
def createFlag (offset : BitVec 32) : Byte := if offset = 0 then 1#8 else 0#8

/-- The body of an Upload request for one chunk; `length` is the chunk's length (R56). -/
def uploadBody (p : Params) (path : Bytes) (offset : BitVec 32) (chunk : Bytes) : Bytes :=
  [byteOf7 p.catFile, Config.opUpload] ++ path ++ [Config.pathTerm, createFlag offset] ++
    packInteger offset ++ packInteger (BitVec.ofNat 32 chunk.length) ++ nibbleEncodeAll chunk

/-- The body of a configuration request: category marker, the OPEN bytes after it, fields (R58). -/
def configBody (cat : BitVec 7) (opb : List (BitVec 7)) (fields : Bytes) : Bytes :=
  byteOf7 cat :: opb.map byteOf7 ++ fields

/-- A Rescan request (R57). -/
def rescanRequest (p : Params) (id : Byte) : Bytes := builtMessage p id (rescanBody p)

/-- A Download request (R54). -/
def downloadRequest (p : Params) (id : Byte) (path : Bytes) : Bytes := builtMessage p id (downloadBody p path)

/-- An Upload request (R56). -/
def uploadRequest (p : Params) (id : Byte) (path : Bytes) (offset : BitVec 32) (chunk : Bytes) : Bytes :=
  builtMessage p id (uploadBody p path offset chunk)

/-- The Download response for a file, with any checksum byte: the host does not check it (R55). -/
def downloadResponse (p : Params) (id : Byte) (file : Bytes) (cs : Byte) : Bytes :=
  header p id (byteOf7 p.catFile) Config.opDownload ++ nibbleEncodeAll file ++ [cs, Config.eox]

end Sys2Proof.Machine
end

