-- ==== Sys2Proof/Machine/RxValidator.lean ====
section
/-! DEFINITION. The receive validator of 42_rx_validator.md: RXVALHDR, RXACK, RXCHK, RXDECODE, RDRX, RDD. None of them changes
`RXBUF`. The order of checks is that of 60_exceptions.md R129. -/

namespace Sys2Proof.Machine

/-- The bytes of a template compared in sequence with a message from its byte 0: a byte that is missing or differs fails
(R80). What follows the template is not looked at. -/
def startsWith (m template : Bytes) : Bool :=
  match m, template with
  | _, [] => true
  | [], _ :: _ => false
  | b :: m', t :: template' => b == t && startsWith m' template'

/-- `FRAMEOK` (R82): both markers stand and every byte between them is 7-bit-safe. -/
def frameOk (m : Bytes) : Bool :=
  9 ≤ m.length && memRead m 0 == some Config.sox && memRead m (m.length - 1) == some Config.eox &&
    (slice m 1 (m.length - 2)).all sevenBitSafe

/-- `SUMOK` (R82): the sum from index 6 through the second-to-last byte is 0 modulo 128. -/
def sumOk (m : Bytes) : Bool :=
  9 ≤ m.length && sum7 (slice m Config.ckStart (m.length - 2)) == 0

/-- The payload region `RXBUF[9 .. n-3]` of a message of at least 11 bytes (R86). -/
def payload (m : Bytes) : Bytes := slice m 9 (m.length - 3)

/-- `RXVALHDR id, cat, op` (R80). -/
def execRxvalhdr (id cat op : Byte) (s : State) : Host.Outcome State Fault Refusal :=
  if !s.rxvalid then endRaise .sequenceError s
  else if !expectedInDomain id cat op then endRaise .rangeError s
  else if startsWith s.rxbuf (header s.params id cat op) then endOk 1 s
  else endRaise .protocolMismatch s

/-- `RXACK id, cat, op` (R81): equality of length and of every byte with the template. -/
def execRxack (id cat op : Byte) (s : State) : Host.Outcome State Fault Refusal :=
  if !s.rxvalid then endRaise .sequenceError s
  else if !expectedInDomain id cat op then endRaise .rangeError s
  else if s.rxbuf.length = 10 ∧ startsWith s.rxbuf (ackTemplate s.params id cat op) then endOk 1 s
  else endRaise .protocolMismatch s

/-- `RXCHK` (R82): `DOUT[1] = FRAMEOK`, `DOUT[0] = SUMOK`; a bad message is reported, never refused. -/
def execRxchk (s : State) : Host.Outcome State Fault Refusal :=
  if !s.rxvalid then endRaise .sequenceError s
  else endOk ((BitVec.ofBool (frameOk s.rxbuf) ++ BitVec.ofBool (sumOk s.rxbuf)).setWidth 40) s

/-- `RXDECODE` (R83): nibble-decode the payload region into `DBUF`. -/
def execRxdecode (s : State) : Host.Outcome State Fault Refusal :=
  if !s.rxvalid then endRaise .sequenceError s
  else if s.rxbuf.length < 11 then endRaise .formatError s
  else if (payload s.rxbuf).length % 2 = 1 then endRaise .formatError s
  else
    match nibbleDecodeAll (payload s.rxbuf) with
    | none => endRaise .formatError s
    | some bs =>
      if withinCapacity s.params.dcap bs.length then
        endLength bs.length { s with dbuf := bs, dvalid := true }
      else endRaise .overflow s

/-- `RDRX i` (R84): read one byte of `RXBUF`. -/
def execRdrx (idx : BitVec 32) (s : State) : Host.Outcome State Fault Refusal :=
  if !s.rxvalid then endRaise .sequenceError s
  else readIndex s.rxbuf idx s

/-- `RDD i` (R85): read one byte of `DBUF`. -/
def execRdd (idx : BitVec 32) (s : State) : Host.Outcome State Fault Refusal :=
  if !s.dvalid then endRaise .sequenceError s
  else readIndex s.dbuf idx s

end Sys2Proof.Machine
end

