-- ==== Sys2Proof/Machine/System.lean ====
section
/-! DEFINITION. The system commands of 44_system.md: RESET, CLRERR, RDSTAT, RDLEN. -/

namespace Sys2Proof.Machine

/-- `RESET` (R92): the reset state, `TRACE` and the channel untouched; returns 0. -/
def execReset (s : State) : Host.Outcome State Fault Refusal :=
  endOk 0 (resetRecord s)

/-- `CLRERR` (R93): clear the sticky flags; returns them as they were. -/
def execClrerr (s : State) : Host.Outcome State Fault Refusal :=
  endOk (s.err.setWidth 40) { s with err := 0 }

/-- `RDSTAT` (R94): return the `STATUS` view. -/
def execRdstat (s : State) : Host.Outcome State Fault Refusal :=
  endOk ((status s).setWidth 40) s

/-- `RDLEN sel` (R95): return `TXLEN`, `RXLEN` or `DLEN`; `RangeError` for another `sel`. -/
def execRdlen (sel : Byte) (s : State) : Host.Outcome State Fault Refusal :=
  match sel.toNat with
  | 0 => endLength s.txbuf.length s
  | 1 => endLength s.rxbuf.length s
  | 2 => endLength s.dbuf.length s
  | _ => endRaise .rangeError s

end Sys2Proof.Machine
end

