-- ==== Sys2Proof/Machine/TxBuilder.lean ====
section
/-! DEFINITION. The transmit builder of 41_tx_builder.md: TXBEGIN, TXBYTE, TXPATH, TXINT, TXNIB, TXCK, TXEND, RDTX. The order
of checks is that of 60_exceptions.md R129: state, operand, capacity. -/

namespace Sys2Proof.Machine

/-- `TXBEGIN id` (R70): start a message, in every phase; `RangeError` when `id > 127`. -/
def execTxbegin (id : Byte) (s : State) : Host.Outcome State Fault Refusal :=
  if sevenBitSafe id then
    endOk 6 { s with txbuf := messageStart s.params id, txacc := 0, txst := .opened }
  else endRaise .rangeError s

/-- `TXBYTE b` (R71): append one raw 7-bit-safe byte. -/
def execTxbyte (b : Byte) (s : State) : Host.Outcome State Fault Refusal :=
  if s.txst ≠ .opened then endRaise .sequenceError s
  else if sevenBitSafe b then appendAndReturn [b] s
  else endRaise .rangeError s

/-- `TXPATH c` (R72): append one path character; `FormatError` when `c` is 0 or above 127. -/
def execTxpath (c : Byte) (s : State) : Host.Outcome State Fault Refusal :=
  if s.txst ≠ .opened then endRaise .sequenceError s
  else if pathChar c then appendAndReturn [c] s
  else endRaise .formatError s

/-- `TXINT v` (R73): append a packed integer, five bytes or none. -/
def execTxint (v : BitVec 32) (s : State) : Host.Outcome State Fault Refusal :=
  if s.txst ≠ .opened then endRaise .sequenceError s
  else appendAndReturn (packInteger v) s

/-- `TXNIB b` (R74): append one data byte nibble-encoded, two bytes or none. -/
def execTxnib (b : Byte) (s : State) : Host.Outcome State Fault Refusal :=
  if s.txst ≠ .opened then endRaise .sequenceError s
  else appendAndReturn (nibbleEncode b) s

/-- `TXCK` (R75): return the checksum the message would get if sealed now. -/
def execTxck (s : State) : Host.Outcome State Fault Refusal :=
  if s.txst ≠ .opened then endRaise .sequenceError s
  else endOk (byteValue (checksumOfSum s.txacc.toNat)) s

/-- `TXEND` (R76): append checksum and end marker, seal. -/
def execTxend (s : State) : Host.Outcome State Fault Refusal :=
  if s.txst ≠ .opened then endRaise .sequenceError s
  else if s.txbuf.length < 7 then endRaise .sequenceError s
  else
    let cs := checksumOfSum s.txacc.toNat
    let sealedBuf := append s.txbuf [cs, Config.eox]
    endLength sealedBuf.length { s with txbuf := sealedBuf, txacc := accumulate s.txacc [cs], txst := .sealed }

/-- `RDTX i` (R77): read one byte of `TXBUF`, in every phase. -/
def execRdtx (idx : BitVec 32) (s : State) : Host.Outcome State Fault Refusal :=
  readIndex s.txbuf idx s

end Sys2Proof.Machine
end

