-- ==== Sys2Proof/Machine/Dispatch.lean ====
section
/-! DEFINITION. One arm per command (30_encoding.md R42). -/

namespace Sys2Proof.Machine

def exec (i : Instr) (s : State) : Host.Outcome State Fault Refusal :=
  match i with
  | .reset => Sys2Proof.Machine.execReset s
  | .clrerr => Sys2Proof.Machine.execClrerr s
  | .rdstat => Sys2Proof.Machine.execRdstat s
  | .rdlen sel => Sys2Proof.Machine.execRdlen sel s
  | .nibenc b => Sys2Proof.Machine.execNibenc b s
  | .nibdec hi lo => Sys2Proof.Machine.execNibdec hi lo s
  | .pack v => Sys2Proof.Machine.execPack v s
  | .unpack d4 d3 d2 d1 d0 => Sys2Proof.Machine.execUnpack d4 d3 d2 d1 d0 s
  | .txbegin id => Sys2Proof.Machine.execTxbegin id s
  | .txbyte b => Sys2Proof.Machine.execTxbyte b s
  | .txpath c => Sys2Proof.Machine.execTxpath c s
  | .txint v => Sys2Proof.Machine.execTxint v s
  | .txnib b => Sys2Proof.Machine.execTxnib b s
  | .txck => Sys2Proof.Machine.execTxck s
  | .txend => Sys2Proof.Machine.execTxend s
  | .txsend => Sys2Proof.Machine.execTxsend s
  | .rdtx idx => Sys2Proof.Machine.execRdtx idx s
  | .rxrecv => Sys2Proof.Machine.execRxrecv s
  | .rxvalhdr id cat op => Sys2Proof.Machine.execRxvalhdr id cat op s
  | .rxack id cat op => Sys2Proof.Machine.execRxack id cat op s
  | .rxchk => Sys2Proof.Machine.execRxchk s
  | .rxdecode => Sys2Proof.Machine.execRxdecode s
  | .rdrx idx => Sys2Proof.Machine.execRdrx idx s
  | .rdd idx => Sys2Proof.Machine.execRdd idx s

end Sys2Proof.Machine
end

