-- ==== Sys2Proof/Machine/Issue.lean ====
section
/-! DEFINITION. What the block does next (30_encoding.md R40; 70_reset_and_hazards.md R140, R144) and how it takes one
command word (R42, R43). The block has no program counter and fetches nothing: the host presents words (10_state.md R15). -/

namespace Sys2Proof.Machine

/-- What the next step is about. A state in it has the host's input already taken. -/
inductive Pending where
  /-- The host presents nothing: the block waits for a command word (R140, R142). -/
  | idle
  /-- The hardware reset input (R140). -/
  | resetPin (s : State)
  /-- An RXRECV is in progress: no other command is accepted (R90). -/
  | receiving
  /-- A command word (R40). -/
  | command (w : CommandWord) (s : State)
  deriving DecidableEq, Repr

/-- The hardware reset input comes before everything, also before a waiting RXRECV (R140); a waiting RXRECV comes before the
next command word, which the block does not accept yet (R90). -/
def pending (s : State) : Pending :=
  match s.inputs with
  | .resetPin :: rest => .resetPin { s with inputs := rest }
  | .command w :: rest => if s.waiting then .receiving else .command w { s with inputs := rest }
  | [] => if s.waiting then .receiving else .idle

/-- Take one command word: decode it and execute the command to its end (R40), or raise `IllegalCommand` and change nothing
else (R43; 60_exceptions.md R128). -/
def issue (w : CommandWord) (s : State) : Host.Outcome State Fault Refusal :=
  match decode w with
  | .command i => exec i s
  | .illegal _ => endRaise .illegalCommand s

/-- The command word that an opcode-table row's bits are, every bit above `nbits` 0. -/
def tableWord (nbits w : Nat) : CommandWord := BitVec.ofNat 48 (w % 2 ^ nbits)

/-- The host presents this word next, ahead of everything else, to a block that is not waiting. -/
def present (w : CommandWord) (s : State) : State :=
  { s with inputs := .command w :: s.inputs, waiting := false }

end Sys2Proof.Machine
end

