-- ==== Sys2Proof/Machine/Step.lean ====
section
/-! DEFINITION. The step of the machine: one input of the host, one command as one atomic step (00_scope.md R8). -/

namespace Sys2Proof.Machine

/-- One step. With nothing presented, and while an RXRECV waits unanswered, the spec's state does not change
(70_reset_and_hazards.md R142, R144; log entries 6 and 10). -/
def step (s : State) : Host.Outcome State Fault Refusal :=
  match pending s with
  | .idle => .next s
  | .resetPin t => .next (hardwareReset t)
  | .receiving => exec .rxrecv s
  | .command w t => issue w t

/-- The host presents the instruction whose bits are `w` as the next command word (log entry 1). -/
def State.withFetchWord (s : State) (nbits w : Nat) : State := present (tableWord nbits w) s

end Sys2Proof.Machine
end

