-- ==== Sys2Proof/Machine/HostSequences.lean ====
section
/-! DEFINITION. The pseudo-instructions of 30_encoding.md R44 and the host sequences of 45_host_sequences.md: request builders
(R98 to R100, normative for the block), file transfer (R101 to R103), device control (R104 to R107) and the deployment
workflow (R108). They are the host's, not the block's: nothing in step refers to them (00_scope.md R4; log entry 16). -/

namespace Sys2Proof.Machine

/-! ## Pseudo-instructions (R44, R98 to R100) -/

/-- `TXHDR id, cat, op` (R44). -/
def txHdr (id cat op : Byte) : List Instr := [.txbegin id, .txbyte cat, .txbyte op]

/-- `TXSTR "…"`: one TXPATH per character (R44). -/
def txStr (path : Bytes) : List Instr := path.map Instr.txpath

/-- `TXDATA b0, …`: one TXNIB per byte (R44). -/
def txData (data : Bytes) : List Instr := data.map Instr.txnib

/-- `REQ_RESCAN id` (R98). -/
def reqRescan (p : Params) (id : Byte) : List Instr :=
  [.txbegin id, .txbyte (byteOf7 p.catFile), .txbyte Config.opRescan, .txend]

/-- `REQ_DOWNLOAD id, "path"` (R99). -/
def reqDownload (p : Params) (id : Byte) (path : Bytes) : List Instr :=
  .txbegin id :: .txbyte (byteOf7 p.catFile) :: .txbyte Config.opDownload :: (txStr path ++ [.txend])

/-- `REQ_UPLOAD id, "path", offset, b0, …, bk` (R100). -/
def reqUpload (p : Params) (id : Byte) (path : Bytes) (offset : BitVec 32) (chunk : Bytes) : List Instr :=
  .txbegin id :: .txbyte (byteOf7 p.catFile) :: .txbyte Config.opUpload :: (txStr path ++
    .txbyte Config.pathTerm :: .txbyte (createFlag offset) :: .txint offset ::
      .txint (BitVec.ofNat 32 chunk.length) :: (txData chunk ++ [.txend]))

/-- A configuration request: `TXBEGIN id`, the category marker, the OPEN bytes, the fields, `TXEND` (R105 to R107). -/
def reqConfig (id : Byte) (cat : BitVec 7) (opb : List (BitVec 7)) (fields : List Instr) : List Instr :=
  .txbegin id :: .txbyte (byteOf7 cat) :: (opb.map (fun b => Instr.txbyte (byteOf7 b)) ++ (fields ++ [.txend]))

/-! ## Running a sequence: wait for each result, stop at the first command that raises (R44, R97) -/

/-- What follows a next state. -/
def onNext (o : Host.Outcome State Fault Refusal) (f : State → Host.Outcome State Fault Refusal) :
    Host.Outcome State Fault Refusal :=
  match o with
  | .next t => f t
  | .fault r => .fault r
  | .refused r => .refused r

/-- The host waits for the end of an RXRECV in progress (R101, R103: it "may wait for ever"; 70_reset_and_hazards.md R144):
the block asks the channel again, at most `turns` times. -/
def awaitAnswer (turns : Nat) (s : State) : Host.Outcome State Fault Refusal :=
  match turns with
  | 0 => .next s
  | turns + 1 => if s.waiting then onNext (exec .rxrecv s) (awaitAnswer turns) else .next s

/-- One command, waited for through every answer that the channel has listed: each turn of the wait takes one, so a wait
that lasts longer is one that no listed answer ends. -/
def runCommand (i : Instr) (s : State) : Host.Outcome State Fault Refusal :=
  onNext (exec i s) fun t => awaitAnswer t.recvAnswers.length t

/-- The commands in order, up to the first that raises or that no answer of the channel ends. -/
def runCommands (cmds : List Instr) (s : State) : Host.Outcome State Fault Refusal :=
  match cmds with
  | [] => .next s
  | i :: rest =>
    onNext (runCommand i s) fun t => if t.rc = 0#8 ∧ t.waiting = false then runCommands rest t else .next t

/-- The state in which a sequence ends. -/
def drive (cmds : List Instr) (s : State) : State :=
  match runCommands cmds s with
  | .next t => t
  | .fault _ => s
  | .refused _ => s

/-- What the host reports to its caller (R109). -/
inductive HostReport where
  | success
  /-- The bytes of a downloaded file or of a path string. -/
  | bytes (b : Bytes)
  /-- Download's name for a `ProtocolMismatch` of RXVALHDR (60_exceptions.md R125). -/
  | unexpectedResponse
  /-- Failure with the block's result code. -/
  | failure (code : BitVec 8)
  /-- Upload failure inside the workflow (60_exceptions.md R125). -/
  | workflowAborted
  /-- An RXRECV that no listed answer of the channel ends (70_reset_and_hazards.md R144). -/
  | stalled
  deriving DecidableEq, Repr

/-- Go on with the next part of a sequence if the last command ended with `OK`, else report (R97). -/
def andThen (t : State) (next : State → HostReport × State) : HostReport × State :=
  if t.waiting then (.stalled, t)
  else if t.rc = 0#8 then next t
  else (.failure t.rc, t)

/-- The bytes read back one by one by an indexed read command, up to the first error (R101 step 5). -/
def readBack (read : BitVec 32 → Instr) (indices : List Nat) (s : State) : Bytes × State :=
  match indices with
  | [] => ([], s)
  | k :: rest =>
    let t := drive [read (BitVec.ofNat 32 k)] s
    if t.rc = 0#8 then
      let (bs, u) := readBack read rest t
      (t.dout.setWidth 8 :: bs, u)
    else ([], t)

/-- The string read from an index on, up to the first null or `RangeError` (R105), as far as an index can be
presented (2^32, U7). The fuel bounds the reads. -/
def readString (fuel idx : Nat) (s : State) : Bytes × State :=
  match fuel with
  | 0 => ([], s)
  | fuel + 1 =>
    if idx < 2 ^ 32 then
      let t := drive [.rdrx (BitVec.ofNat 32 idx)] s
      if t.rc = 0#8 ∧ t.dout.setWidth 8 ≠ 0#8 then
        let (bs, u) := readString fuel (idx + 1) t
        (t.dout.setWidth 8 :: bs, u)
      else ([], t)
    else ([], s)

/-! ## File transfer (R101 to R103) -/

/-- `DOWNLOAD(id, path)` (R101). A byte at an index of 2^32 or more cannot be read back (U7). -/
def download (id : Byte) (path : Bytes) (s : State) : HostReport × State :=
  andThen (drive (reqDownload s.params id path) s) fun t =>
  andThen (drive [.txsend] t) fun t =>
  andThen (drive [.rxrecv] t) fun t =>
  let u := drive [.rxvalhdr id (byteOf7 s.params.catFile) Config.opDownload] t
  if u.rc = ErrKind.protocolMismatch.code then (.unexpectedResponse, u)
  else andThen u fun u =>
  andThen (drive [.rxdecode] u) fun v =>
  let (bs, w) := readBack Instr.rdd (List.range (min v.dout.toNat (2 ^ 32))) v
  (.bytes bs, w)

/-- The chunks of R102: offset and bytes, at most 512 each, in order, covering the whole buffer. -/
def chunks (data : Bytes) : List (Nat × Bytes) :=
  (List.range ((data.length + (Config.chunkMax - 1)) / Config.chunkMax)).map
    (fun c => (Config.chunkMax * c, (data.drop (Config.chunkMax * c)).take Config.chunkMax))

/-- The loop of `UPLOAD` over the chunks: each is acknowledged before the next is built (R103). -/
def uploadChunks (id : Byte) (path : Bytes) (cs : List (Nat × Bytes)) (s : State) : HostReport × State :=
  match cs with
  | [] => (.success, s)
  | (offset, chunk) :: rest =>
    andThen (drive (reqUpload s.params id path (BitVec.ofNat 32 offset) chunk ++
      [.txsend, .rxrecv, .rxack id (byteOf7 s.params.catFile) Config.opUpload]) s) fun t =>
    uploadChunks id path rest t

/-- `UPLOAD(id, path, data)` (R103); `data` is shorter than 2^32 bytes (93_implementation_defined.md U5). -/
def upload (id : Byte) (path data : Bytes) (s : State) : HostReport × State :=
  uploadChunks id path (chunks data) s

/-! ## Device control (R104 to R107) -/

/-- `RESCAN(id)`: fire-and-forget (R104). -/
def rescan (id : Byte) (s : State) : HostReport × State :=
  andThen (drive (reqRescan s.params id ++ [.txsend]) s) fun t => (.success, t)

/-- `GETCFGPATH(id)` (R105). -/
def getCfgPath (id : Byte) (s : State) : HostReport × State :=
  andThen (drive (reqConfig id s.params.catGetcfg s.params.opbGetcfg [] ++ [.txsend, .rxrecv]) s) fun t =>
  let (bs, u) := readString (t.rxbuf.length + 1) t.params.getcfgOffset t
  (.bytes bs, u)

/-- `NEWCFG(id)`: fire-and-forget (R106). -/
def newCfg (id : Byte) (s : State) : HostReport × State :=
  andThen (drive (reqConfig id s.params.catNewcfg s.params.opbNewcfg [] ++ [.txsend]) s) fun t => (.success, t)

/-- `LOADCFG(id, path)`: the path and a null terminator, fire-and-forget (R107). -/
def loadCfg (id : Byte) (path : Bytes) (s : State) : HostReport × State :=
  andThen (drive (reqConfig id s.params.catLoadcfg s.params.opbLoadcfg (txStr path ++ [.txbyte 0]) ++ [.txsend]) s)
    fun t => (.success, t)

/-! ## The deployment workflow (R108) -/

/-- `"/programs/plug-ins/"`, where a plug-in stands on the device (R108). -/
def pluginFolder : Bytes :=
  [0x2F#8, 0x70#8, 0x72#8, 0x6F#8, 0x67#8, 0x72#8, 0x61#8, 0x6D#8, 0x73#8, 0x2F#8,
    0x70#8, 0x6C#8, 0x75#8, 0x67#8, 0x2D#8, 0x69#8, 0x6E#8, 0x73#8, 0x2F#8]

/-- The remote path of a local binary: `"/programs/plug-ins/" + basename(localBinary)` (R108; 90_conflicts.md C14). -/
def remotePath (localBinary : Bytes) : Bytes := pluginFolder ++ Config.basename localBinary

/-- `PluginDeploymentWorkflow` (R108): snapshot, blank configuration, upload, rescan, and the restore of a non-empty
snapshot. `localBinary` is the local path and `data` the bytes of that file; `trim` and `basename` are open (log entry 16). -/
def deploy (id : Byte) (localBinary data : Bytes) (s : State) : HostReport × State :=
  match getCfgPath id s with
  | (.bytes path, t) =>
    match newCfg id t with
    | (.success, u) =>
      match upload id (remotePath localBinary) data u with
      | (.success, v) =>
        match rescan id v with
        | (.success, w) => if Config.trim path = [] then (.success, w) else loadCfg id (Config.trim path) w
        | other => other
      | (.stalled, v) => (.stalled, v)
      | (_, v) => (.workflowAborted, v)
    | other => other
  | other => other

end Sys2Proof.Machine
end

