-- ==== Sys2Proof/Safety.lean ====
section
/-! DEFINITION. What counts as a good state and a good history: the invariants of 10_state.md R27 and the message invariant
of 30_encoding.md R46, in the terms the statements use. -/

namespace Sys2Proof.Machine

/-- The message invariant of R46 together with the layout of R45 that stands before the category marker: (a) the sum from
index 6 through the checksum is 0 modulo 128, (b) both markers, (c) everything between them 7-bit-safe, (d) at least 9
bytes; and bytes 1 to 4 are `PREFIX`. -/
def MessageOk (p : Params) (m : Bytes) : Prop :=
  9 ≤ m.length ∧
  sum7 (slice m 6 (m.length - 2)) = 0 ∧
  memRead m 0 = some Config.sox ∧
  memRead m (m.length - 1) = some Config.eox ∧
  (∀ i, 1 ≤ i → i ≤ m.length - 2 → ∀ b, memRead m i = some b → b.toNat ≤ 127) ∧
  slice m 1 4 = vendorBytes p

/-- R27 item 1: no message, empty buffer and accumulator 0. -/
def IdleOk (s : State) : Prop :=
  s.txst = .idle → s.txbuf = [] ∧ s.txacc = 0

/-- R27 item 2: the message under construction begins with marker, prefix and a 7-bit-safe instance id, what follows is
7-bit-safe, the accumulator is its sum from index 6, and two bytes are free (R78). -/
def OpenOk (s : State) : Prop :=
  s.txst = .opened →
    6 ≤ s.txbuf.length ∧
    (∃ id : Byte, id.toNat ≤ 127 ∧ slice s.txbuf 0 5 = messageStart s.params id) ∧
    (∀ i, 6 ≤ i → ∀ b, memRead s.txbuf i = some b → b.toNat ≤ 127) ∧
    s.txacc.toNat = sum7 (s.txbuf.drop 6) ∧
    withinCapacity s.params.txcap (s.txbuf.length + 2)

/-- R27 item 3: a sealed message satisfies the message invariant, begins with marker, prefix and a 7-bit-safe instance id,
and the accumulator is 0. -/
def SealedOk (s : State) : Prop :=
  s.txst = .sealed →
    MessageOk s.params s.txbuf ∧
    (∃ id : Byte, id.toNat ≤ 127 ∧ slice s.txbuf 0 5 = messageStart s.params id) ∧
    s.txacc = 0

/-- R27 item 4: an invalid buffer is empty, and a valid decoded payload is the decoding of the message held. -/
def ReceiveOk (s : State) : Prop :=
  (s.rxvalid = false → s.rxbuf = []) ∧
  (s.dvalid = false → s.dbuf = []) ∧
  (s.dvalid = true →
    s.rxvalid = true ∧ 11 ≤ s.rxbuf.length ∧ s.rxbuf.length - 11 = 2 * s.dbuf.length ∧
    ∀ k, k < s.dbuf.length → ∃ hi lo b, memRead s.rxbuf (9 + 2 * k) = some hi ∧
      memRead s.rxbuf (10 + 2 * k) = some lo ∧ memRead s.dbuf k = some b ∧ nibbleDecode hi lo = some b)

/-- R27 item 5: no buffer is longer than its capacity. -/
def CapacityOk (s : State) : Prop :=
  withinCapacity s.params.txcap s.txbuf.length ∧
  withinCapacity s.params.rxcap s.rxbuf.length ∧
  withinCapacity s.params.dcap s.dbuf.length

/-- R27 item 6, with the range of codes of 60_exceptions.md R120: a nonzero `RC` is a code 1 to 8, `DOUT` is 0 and the
error's flag is set. -/
def ResultOk (s : State) : Prop :=
  s.rc ≠ 0 → s.rc.toNat ≤ 8 ∧ s.dout = 0 ∧ s.err.getLsbD (s.rc.toNat - 1) = true

/-- The invariant of the block: items 1 to 6 of R27, for an instance whose parameters are those of 00_scope.md R6 and
93_implementation_defined.md P3, P5, P6 (distinct category markers among them). -/
structure Inv (s : State) : Prop where
  paramsOk : s.params.Ok
  idleOk : IdleOk s
  openOk : OpenOk s
  sealedOk : SealedOk s
  receiveOk : ReceiveOk s
  capacityOk : CapacityOk s
  resultOk : ResultOk s

/-- Every message that the history says was handed to the channel satisfies the message invariant (R46). -/
def SentOk (s : State) : Prop := ∀ m, Event.sent m ∈ s.trace → MessageOk s.params m

/-! ## The causes of the errors that depend on the state or the operands (60_exceptions.md R127, R130, R132) -/

/-- `n` bytes fit a buffer of this capacity (R6): no bound, or a bound that is not exceeded. -/
def Fits (capacity : Option Nat) (n : Nat) : Prop := ∀ c, capacity = some c → n ≤ c

/-- The causes of `SequenceError` that R127 lists. -/
def SequenceCause (i : Instr) (s : State) : Prop :=
  match i with
  | .txbyte _ => s.txst ≠ .opened
  | .txpath _ => s.txst ≠ .opened
  | .txint _ => s.txst ≠ .opened
  | .txnib _ => s.txst ≠ .opened
  | .txck => s.txst ≠ .opened
  | .txend => s.txst ≠ .opened ∨ s.txbuf.length < 7
  | .txsend => s.txst ≠ .sealed
  | .rxvalhdr _ _ _ => s.rxvalid = false
  | .rxack _ _ _ => s.rxvalid = false
  | .rxchk => s.rxvalid = false
  | .rxdecode => s.rxvalid = false
  | .rdrx _ => s.rxvalid = false
  | .rdd _ => s.dvalid = false
  | .reset => False
  | .clrerr => False
  | .rdstat => False
  | .rdlen _ => False
  | .nibenc _ => False
  | .nibdec _ _ => False
  | .pack _ => False
  | .unpack _ _ _ _ _ => False
  | .txbegin _ => False
  | .rdtx _ => False
  | .rxrecv => False

/-- The causes of `RangeError` that R130 lists. -/
def RangeCause (i : Instr) (s : State) : Prop :=
  match i with
  | .txbegin id => 127 < id.toNat
  | .txbyte b => 127 < b.toNat
  | .nibdec hi lo => 15 < hi.toNat ∨ 15 < lo.toNat
  | .unpack d4 d3 d2 d1 d0 => 15 < d4.toNat ∨ 127 < d3.toNat ∨ 127 < d2.toNat ∨ 127 < d1.toNat ∨ 127 < d0.toNat
  | .rxvalhdr id cat op => 127 < id.toNat ∨ 127 < cat.toNat ∨ 127 < op.toNat
  | .rxack id cat op => 127 < id.toNat ∨ 127 < cat.toNat ∨ 127 < op.toNat
  | .rdtx idx => s.txbuf.length ≤ idx.toNat
  | .rdrx idx => s.rxbuf.length ≤ idx.toNat
  | .rdd idx => s.dbuf.length ≤ idx.toNat
  | .rdlen sel => 2 < sel.toNat
  | .reset => False
  | .clrerr => False
  | .rdstat => False
  | .nibenc _ => False
  | .pack _ => False
  | .txpath _ => False
  | .txint _ => False
  | .txnib _ => False
  | .txck => False
  | .txend => False
  | .txsend => False
  | .rxrecv => False
  | .rxchk => False
  | .rxdecode => False

/-- A command that ends with an error code `k` in this step: the block is not left waiting for the channel. -/
def EndsWith (i : Instr) (s : State) (e : ErrKind) : Prop :=
  ∃ t, exec i s = .next t ∧ (i = .rxrecv → t.waiting = false) ∧ t.rc = e.code

/-- The commands that append to the message under construction (R127). -/
def isAppend (i : Instr) : Bool :=
  match i with
  | .txbyte _ => true
  | .txpath _ => true
  | .txint _ => true
  | .txnib _ => true
  | .reset => false
  | .clrerr => false
  | .rdstat => false
  | .rdlen _ => false
  | .nibenc _ => false
  | .nibdec _ _ => false
  | .pack _ => false
  | .unpack _ _ _ _ _ => false
  | .txbegin _ => false
  | .txck => false
  | .txend => false
  | .txsend => false
  | .rdtx _ => false
  | .rxrecv => false
  | .rxvalhdr _ _ _ => false
  | .rxack _ _ _ => false
  | .rxchk => false
  | .rxdecode => false
  | .rdrx _ => false
  | .rdd _ => false

end Sys2Proof.Machine
end

