-- ==== Sys2Proof/Certificates/Slice0/Obligations.lean ====
section
/-! DEFINITION. The statements for the provers. Each docstring names the rule of spec/ that the statement formalises, or the
log entry where it rests on a choice of the model. Bits of a command word are written `w.extractLsb' low width`. -/

open Sys2Proof Sys2Proof.Machine

/-! ## The command word -/

/-- R40 to R42, all commands: decoding the word of a command gives that command with every operand. -/
def Obligations.DecodeOfEncodeIsTheCommand : Prop :=
  ∀ i : Instr, decode (encode i) = .command i

/-- R40 to R43: a command has no other word than the one the encoder writes. -/
def Obligations.DecodedWordIsTheEncodedOne : Prop :=
  ∀ (w : CommandWord) (i : Instr), decode w = .command i → encode i = w

/-- R42: a word decodes to a command exactly when it matches a row of the opcode table, and then to that row's command. -/
def Obligations.LegalWordsAreTheTableRows : Prop :=
  ∀ w : CommandWord,
    (rowOf w = none → ∃ why, decode w = .illegal why) ∧
    (∀ r, rowOf w = some r → ∃ i, decode w = .command i ∧ i.mnemonic = r.mnemonic)

/-- R41, R42: five words of the spec's examples, one of each group of commands and form D. -/
def Obligations.SampleWordsDecode : Prop :=
  decode 0x040000000002#48 = .command (.rdlen 2) ∧
  decode 0x110000000A05#48 = .command (.nibdec 10 5) ∧
  decode 0x130111512C78#48 = .command (.unpack 0x01 0x11 0x51 0x2C 0x78) ∧
  decode 0x230000000200#48 = .command (.txint 512) ∧
  decode 0x310000057A02#48 = .command (.rxvalhdr 5 0x7A 2)

/-- R128: a word of no row of the table raises `IllegalCommand` and has no other effect; a word of a row never does (an
RXRECV that is left waiting has no result yet, log entry 6). -/
def Obligations.IllegalWordsRaiseAndChangeNothingElse : Prop :=
  ∀ (w : CommandWord) (s : State),
    (rowOf w = none →
      issue w s = .next { s with rc := 7, dout := 0, err := s.err ||| 0x40#8 }) ∧
    (rowOf w ≠ none → ∀ t, issue w s = .next t → (decode w = .command .rxrecv → t.waiting = false) → t.rc ≠ 7)

/-! ## The step -/

/-- R40: a block that is not waiting takes the word presented first, and executes the command it decodes to as one step; a
word that decodes to none raises `IllegalCommand`. -/
def Obligations.StepRunsTheDecodedCommand : Prop :=
  ∀ (s : State) (w : CommandWord) (rest : List HostInput),
    s.waiting = false → s.inputs = .command w :: rest →
      (∀ i, decode w = .command i → step s = exec i { s with inputs := rest }) ∧
      (∀ why, decode w = .illegal why → step s = .next (raise .illegalCommand { s with inputs := rest }))

/-- R140: the hardware reset input gives the reset values of R28 in every state and ends a waiting RXRECV without a result;
the channel's answers stay. That `TRACE` stays is the model's choice (log entry 8). -/
def Obligations.HardwareResetGivesTheResetState : Prop :=
  ∀ (s : State) (rest : List HostInput), s.inputs = .resetPin :: rest →
    step s = .next { State.reset with
      trace := s.trace, params := s.params, inputs := rest,
      sendAnswers := s.sendAnswers, recvAnswers := s.recvAnswers, fresh := s.fresh }

/-- R90 (Waiting), R144: while an RXRECV waits and the channel is silent, a step changes nothing of the spec's state and takes
no command word. R140, R142: with nothing presented a block that is not waiting stays as it is. How the wait, the silence and
the empty stream of commands are held is the model's (log entries 1, 5, 6 and 10). -/
def Obligations.NoCommandOrNoAnswerChangesNothing : Prop :=
  ∀ s : State,
    (s.waiting = true → (∀ rest, s.inputs ≠ .resetPin :: rest) → s.recvAnswers = [] → step s = .next s) ∧
    (∀ answers, s.waiting = true → (∀ rest, s.inputs ≠ .resetPin :: rest) → s.recvAnswers = .silent :: answers →
      step s = .next { s with recvAnswers := answers }) ∧
    (s.waiting = false → s.inputs = [] → step s = .next s)

/-- 93_implementation_defined.md section 1: every command is total on every state (it completes, raises, or, RXRECV alone,
waits). That a waiting RXRECV answers a next state, where R144 and U8 say that the block has no step of its own, is the model's
choice of log entry 6, and that an idle block does is that of log entry 10. -/
def Obligations.EveryStepGivesANextState : Prop :=
  (∀ (i : Instr) (s : State), ∃ t, exec i s = .next t) ∧ (∀ s : State, ∃ t, step s = .next t)

/-! ## Results -/

/-- R126: raising error `k` writes `RC = k`, `DOUT = 0`, sets bit `k-1` of `ERR`, and keeps every other element. The codes
are those of R120. -/
def Obligations.RaiseWritesCodeAndFlagOnly : Prop :=
  ∀ (e : ErrKind) (s : State),
    raise e s = { s with rc := e.code, dout := 0, err := (raise e s).err } ∧
    (∀ j, j < 8 → (raise e s).err.getLsbD j = (s.err.getLsbD j || decide (j = e.code.toNat - 1))) ∧
    [ErrKind.protocolMismatch, .formatError, .ioError, .timeout, .sequenceError, .rangeError, .illegalCommand,
      .overflow].map (fun k => k.code.toNat) = [1, 2, 3, 4, 5, 6, 7, 8]

/-- R16, R17: a returned length below 2^40 stands in `DOUT` with `RC = 0`. Of a longer one the value in `DOUT` is open
(U7, log entry 9): the command still ends with `OK` and changes nothing else of the spec's state. -/
def Obligations.ReturnedLengthStandsInDout : Prop :=
  ∀ (n : Nat) (s : State),
    (n < 2 ^ 40 → retLength n s = { s with rc := 0, dout := BitVec.ofNat 40 n } ∧ (retLength n s).dout.toNat = n) ∧
    (2 ^ 40 ≤ n → ∃ v, retLength n s = { s with rc := 0, dout := v, fresh := s.fresh + 1 })

/-! ## System commands -/

/-- R92. -/
def Obligations.ResetCommandGivesTheResetState : Prop :=
  ∀ s : State,
    (∀ w : CommandWord, w.extractLsb' 40 8 = 0x01#8 →
      issue w s = if w.extractLsb' 0 40 = 0 then exec .reset s else .next (raise .illegalCommand s)) ∧
    exec .reset s = .next { s with
      dout := 0, rc := 0, err := 0, txbuf := [], txacc := 0, txst := .idle,
      rxbuf := [], rxvalid := false, dbuf := [], dvalid := false }

/-- R93. -/
def Obligations.ClrerrReturnsAndClearsTheFlags : Prop :=
  ∀ s : State,
    (∀ w : CommandWord, w.extractLsb' 40 8 = 0x02#8 →
      issue w s = if w.extractLsb' 0 40 = 0 then exec .clrerr s else .next (raise .illegalCommand s)) ∧
    exec .clrerr s = .next { s with rc := 0, dout := 0#32 ++ s.err, err := 0 }

/-- R94, with the bits of `STATUS` as R24 lays them out. -/
def Obligations.RdstatReturnsTheStatusView : Prop :=
  ∀ s : State,
    (∀ w : CommandWord, w.extractLsb' 40 8 = 0x03#8 →
      issue w s = if w.extractLsb' 0 40 = 0 then exec .rdstat s else .next (raise .illegalCommand s)) ∧
    ∃ v : Word40, exec .rdstat s = .next { s with rc := 0, dout := v } ∧
      v.getLsbD 0 = decide (s.txst = .opened) ∧ v.getLsbD 1 = decide (s.txst = .sealed) ∧
      v.getLsbD 2 = s.rxvalid ∧ v.getLsbD 3 = s.dvalid ∧
      (∀ k, 4 ≤ k → k < 8 → v.getLsbD k = false) ∧
      (∀ k, k < 8 → v.getLsbD (8 + k) = s.err.getLsbD k) ∧
      (∀ k, 16 ≤ k → v.getLsbD k = false)

/-- R95. Lengths of 2^40 or more are the matter of ReturnedLengthStandsInDout. -/
def Obligations.RdlenReturnsTheSelectedLength : Prop :=
  ∀ s : State,
    (∀ w : CommandWord, w.extractLsb' 40 8 = 0x04#8 →
      issue w s = if w.extractLsb' 8 32 = 0 then exec (.rdlen (w.extractLsb' 0 8)) s
        else .next (raise .illegalCommand s)) ∧
    exec (.rdlen 0) s = .next (retLength s.txbuf.length s) ∧
    exec (.rdlen 1) s = .next (retLength s.rxbuf.length s) ∧
    exec (.rdlen 2) s = .next (retLength s.dbuf.length s) ∧
    (∀ sel : Byte, 2 < sel.toNat → exec (.rdlen sel) s = .next (raise .rangeError s))

/-! ## Codec functions and commands -/

/-- R60: `sum7` and its laws. -/
def Obligations.SumSevenAddsOverAppend : Prop :=
  (∀ s : Bytes, sum7 s = (s.map BitVec.toNat).sum % 128) ∧ sum7 [] = 0 ∧
  (∀ s t : Bytes, sum7 (s ++ t) = (sum7 s + sum7 t) % 128 ∧ sum7 s < 128) ∧
  (∀ (s : Bytes) (b : Byte), sum7 (s ++ [b]) = (sum7 s + b.toNat) % 128)

/-- R61: the checksum is the one byte of 0..127 that completes the sum to a multiple of 128. -/
def Obligations.ChecksumIsTheUniqueCompletion : Prop :=
  ∀ s : Bytes,
    (checksum s).toNat = (128 - sum7 s) % 128 ∧ (checksum s).toNat < 128 ∧ sum7 (s ++ [checksum s]) = 0 ∧
    checksum [] = 0 ∧
    (∀ v : Byte, v.toNat < 128 → sum7 (s ++ [v]) = 0 → v = checksum s) ∧
    (sum7 s = 0 → checksum s = 0) ∧
    (∀ t, sum7 t = 0 → checksum (s ++ t) = checksum s)

/-- R62, R63: nibble coding of one byte, and the round trip of whole payloads in both directions. -/
def Obligations.NibbleCodingRoundTrips : Prop :=
  (∀ b : Byte, nibbleEncode b = [BitVec.ofNat 8 (b.toNat / 16), BitVec.ofNat 8 (b.toNat % 16)]) ∧
  (∀ hi lo : Byte, hi.toNat ≤ 15 → lo.toNat ≤ 15 →
    nibbleDecode hi lo = some (BitVec.ofNat 8 (16 * hi.toNat + lo.toNat)) ∧
    nibbleEncode (BitVec.ofNat 8 (16 * hi.toNat + lo.toNat)) = [hi, lo]) ∧
  (∀ hi lo : Byte, 15 < hi.toNat ∨ 15 < lo.toNat → nibbleDecode hi lo = none) ∧
  (∀ s : Bytes, nibbleDecodeAll (nibbleEncodeAll s) = some s ∧ (nibbleEncodeAll s).length = 2 * s.length) ∧
  (∀ s t : Bytes, nibbleDecodeAll s = some t → nibbleEncodeAll t = s)

/-- R66, R67: the digits, the value of five digits, and the round trip over the whole domain in both directions. -/
def Obligations.PackedIntegerRoundTrips : Prop :=
  (∀ v : BitVec 32, packInteger v = [BitVec.ofNat 8 (v.toNat / 2 ^ 28), BitVec.ofNat 8 (v.toNat / 2 ^ 21 % 128),
    BitVec.ofNat 8 (v.toNat / 2 ^ 14 % 128), BitVec.ofNat 8 (v.toNat / 2 ^ 7 % 128), BitVec.ofNat 8 (v.toNat % 128)]) ∧
  (∀ d4 d3 d2 d1 d0 : Byte,
    (d4.toNat ≤ 15 → d3.toNat ≤ 127 → d2.toNat ≤ 127 → d1.toNat ≤ 127 → d0.toNat ≤ 127 →
      unpackInteger d4 d3 d2 d1 d0 =
        some (d4.toNat * 2 ^ 28 + d3.toNat * 2 ^ 21 + d2.toNat * 2 ^ 14 + d1.toNat * 2 ^ 7 + d0.toNat)) ∧
    (15 < d4.toNat ∨ 127 < d3.toNat ∨ 127 < d2.toNat ∨ 127 < d1.toNat ∨ 127 < d0.toNat →
      unpackInteger d4 d3 d2 d1 d0 = none)) ∧
  (∀ v : BitVec 32, ∃ d4 d3 d2 d1 d0 : Byte, packInteger v = [d4, d3, d2, d1, d0] ∧
    d4.toNat ≤ 15 ∧ d3.toNat ≤ 127 ∧ d2.toNat ≤ 127 ∧ d1.toNat ≤ 127 ∧ d0.toNat ≤ 127 ∧
    unpackInteger d4 d3 d2 d1 d0 = some v.toNat) ∧
  (∀ (d4 d3 d2 d1 d0 : Byte) (n : Nat), unpackInteger d4 d3 d2 d1 d0 = some n →
    n < 2 ^ 32 ∧ packInteger (BitVec.ofNat 32 n) = [d4, d3, d2, d1, d0])

/-- R64. -/
def Obligations.NibencReturnsThePair : Prop :=
  ∀ s : State,
    (∀ w : CommandWord, w.extractLsb' 40 8 = 0x10#8 →
      issue w s = if w.extractLsb' 8 32 = 0 then exec (.nibenc (w.extractLsb' 0 8)) s
        else .next (raise .illegalCommand s)) ∧
    ∀ b : Byte, exec (.nibenc b) s =
      .next { s with rc := 0, dout := BitVec.ofNat 40 (b.toNat / 16 * 256 + b.toNat % 16) }

/-- R65. -/
def Obligations.NibdecReturnsTheByte : Prop :=
  ∀ s : State,
    (∀ w : CommandWord, w.extractLsb' 40 8 = 0x11#8 →
      issue w s = if w.extractLsb' 16 24 = 0 then exec (.nibdec (w.extractLsb' 8 8) (w.extractLsb' 0 8)) s
        else .next (raise .illegalCommand s)) ∧
    ∀ hi lo : Byte,
      (hi.toNat ≤ 15 → lo.toNat ≤ 15 → exec (.nibdec hi lo) s =
        .next { s with rc := 0, dout := BitVec.ofNat 40 (16 * hi.toNat + lo.toNat) }) ∧
      (15 < hi.toNat ∨ 15 < lo.toNat → exec (.nibdec hi lo) s = .next (raise .rangeError s))

/-- R68. -/
def Obligations.PackReturnsTheDigits : Prop :=
  ∀ s : State,
    (∀ w : CommandWord, w.extractLsb' 40 8 = 0x12#8 →
      issue w s = if w.extractLsb' 32 8 = 0 then exec (.pack (w.extractLsb' 0 32)) s
        else .next (raise .illegalCommand s)) ∧
    ∀ v : BitVec 32, exec (.pack v) s = .next { s with rc := 0, dout := (BitVec.ofNat 40
      (v.toNat / 2 ^ 28 * 2 ^ 32 + v.toNat / 2 ^ 21 % 128 * 2 ^ 24 + v.toNat / 2 ^ 14 % 128 * 2 ^ 16 +
        v.toNat / 2 ^ 7 % 128 * 2 ^ 8 + v.toNat % 128)) }

/-- R69. -/
def Obligations.UnpackReturnsTheValue : Prop :=
  ∀ s : State,
    (∀ w : CommandWord, w.extractLsb' 40 8 = 0x13#8 →
      issue w s = exec (.unpack (w.extractLsb' 32 8) (w.extractLsb' 24 8) (w.extractLsb' 16 8)
        (w.extractLsb' 8 8) (w.extractLsb' 0 8)) s) ∧
    ∀ d4 d3 d2 d1 d0 : Byte,
      (d4.toNat ≤ 15 → d3.toNat ≤ 127 → d2.toNat ≤ 127 → d1.toNat ≤ 127 → d0.toNat ≤ 127 →
        exec (.unpack d4 d3 d2 d1 d0) s = .next { s with rc := 0, dout := (BitVec.ofNat 40
          (d4.toNat * 2 ^ 28 + d3.toNat * 2 ^ 21 + d2.toNat * 2 ^ 14 + d1.toNat * 2 ^ 7 + d0.toNat)) }) ∧
      (15 < d4.toNat ∨ 127 < d3.toNat ∨ 127 < d2.toNat ∨ 127 < d1.toNat ∨ 127 < d0.toNat →
        exec (.unpack d4 d3 d2 d1 d0) s = .next (raise .rangeError s))

/-! ## Transmit builder -/

/-- R70. -/
def Obligations.TxbeginStartsAMessage : Prop :=
  ∀ s : State,
    (∀ w : CommandWord, w.extractLsb' 40 8 = 0x20#8 →
      issue w s = if w.extractLsb' 8 32 = 0 then exec (.txbegin (w.extractLsb' 0 8)) s
        else .next (raise .illegalCommand s)) ∧
    ∀ id : Byte,
      (id.toNat ≤ 127 → exec (.txbegin id) s = .next { s with
        txbuf := [0xF0#8, s.params.vendor0.setWidth 8, s.params.vendor1.setWidth 8, s.params.vendor2.setWidth 8,
          s.params.vendor3.setWidth 8, id],
        txacc := 0, txst := .opened, rc := 0, dout := 6 }) ∧
      (127 < id.toNat → exec (.txbegin id) s = .next (raise .rangeError s))

/-- R71. -/
def Obligations.TxbyteAppendsOneByte : Prop :=
  ∀ s : State,
    (∀ w : CommandWord, w.extractLsb' 40 8 = 0x21#8 →
      issue w s = if w.extractLsb' 8 32 = 0 then exec (.txbyte (w.extractLsb' 0 8)) s
        else .next (raise .illegalCommand s)) ∧
    ∀ b : Byte,
      (s.txst ≠ .opened → exec (.txbyte b) s = .next (raise .sequenceError s)) ∧
      (s.txst = .opened → 127 < b.toNat → exec (.txbyte b) s = .next (raise .rangeError s)) ∧
      (s.txst = .opened → b.toNat ≤ 127 → ¬ Fits s.params.txcap (s.txbuf.length + 1 + 2) →
        exec (.txbyte b) s = .next (raise .overflow s)) ∧
      (s.txst = .opened → b.toNat ≤ 127 → Fits s.params.txcap (s.txbuf.length + 1 + 2) →
        exec (.txbyte b) s = .next (retLength (s.txbuf.length + 1) { s with
          txbuf := s.txbuf ++ [b], txacc := BitVec.ofNat 7 ((s.txacc.toNat + b.toNat) % 128) }))

/-- R72. -/
def Obligations.TxpathAppendsOneCharacter : Prop :=
  ∀ s : State,
    (∀ w : CommandWord, w.extractLsb' 40 8 = 0x22#8 →
      issue w s = if w.extractLsb' 8 32 = 0 then exec (.txpath (w.extractLsb' 0 8)) s
        else .next (raise .illegalCommand s)) ∧
    ∀ c : Byte,
      (s.txst ≠ .opened → exec (.txpath c) s = .next (raise .sequenceError s)) ∧
      (s.txst = .opened → c.toNat = 0 ∨ 127 < c.toNat → exec (.txpath c) s = .next (raise .formatError s)) ∧
      (s.txst = .opened → 1 ≤ c.toNat → c.toNat ≤ 127 → ¬ Fits s.params.txcap (s.txbuf.length + 1 + 2) →
        exec (.txpath c) s = .next (raise .overflow s)) ∧
      (s.txst = .opened → 1 ≤ c.toNat → c.toNat ≤ 127 → Fits s.params.txcap (s.txbuf.length + 1 + 2) →
        exec (.txpath c) s = .next (retLength (s.txbuf.length + 1) { s with
          txbuf := s.txbuf ++ [c], txacc := BitVec.ofNat 7 ((s.txacc.toNat + c.toNat) % 128) }))

/-- R73. -/
def Obligations.TxintAppendsFiveDigits : Prop :=
  ∀ s : State,
    (∀ w : CommandWord, w.extractLsb' 40 8 = 0x23#8 →
      issue w s = if w.extractLsb' 32 8 = 0 then exec (.txint (w.extractLsb' 0 32)) s
        else .next (raise .illegalCommand s)) ∧
    ∀ v : BitVec 32,
      (s.txst ≠ .opened → exec (.txint v) s = .next (raise .sequenceError s)) ∧
      (s.txst = .opened → ¬ Fits s.params.txcap (s.txbuf.length + 5 + 2) →
        exec (.txint v) s = .next (raise .overflow s)) ∧
      (s.txst = .opened → Fits s.params.txcap (s.txbuf.length + 5 + 2) →
        exec (.txint v) s = .next (retLength (s.txbuf.length + 5) { s with
          txbuf := s.txbuf ++ [BitVec.ofNat 8 (v.toNat / 2 ^ 28), BitVec.ofNat 8 (v.toNat / 2 ^ 21 % 128),
            BitVec.ofNat 8 (v.toNat / 2 ^ 14 % 128), BitVec.ofNat 8 (v.toNat / 2 ^ 7 % 128),
            BitVec.ofNat 8 (v.toNat % 128)],
          txacc := BitVec.ofNat 7 ((s.txacc.toNat + (v.toNat / 2 ^ 28 + v.toNat / 2 ^ 21 % 128 +
            v.toNat / 2 ^ 14 % 128 + v.toNat / 2 ^ 7 % 128 + v.toNat % 128)) % 128) }))

/-- R74. -/
def Obligations.TxnibAppendsTwoNibbles : Prop :=
  ∀ s : State,
    (∀ w : CommandWord, w.extractLsb' 40 8 = 0x24#8 →
      issue w s = if w.extractLsb' 8 32 = 0 then exec (.txnib (w.extractLsb' 0 8)) s
        else .next (raise .illegalCommand s)) ∧
    ∀ b : Byte,
      (s.txst ≠ .opened → exec (.txnib b) s = .next (raise .sequenceError s)) ∧
      (s.txst = .opened → ¬ Fits s.params.txcap (s.txbuf.length + 2 + 2) →
        exec (.txnib b) s = .next (raise .overflow s)) ∧
      (s.txst = .opened → Fits s.params.txcap (s.txbuf.length + 2 + 2) →
        exec (.txnib b) s = .next (retLength (s.txbuf.length + 2) { s with
          txbuf := s.txbuf ++ [BitVec.ofNat 8 (b.toNat / 16), BitVec.ofNat 8 (b.toNat % 16)],
          txacc := BitVec.ofNat 7 ((s.txacc.toNat + (b.toNat / 16 + b.toNat % 16)) % 128) }))

/-- R75: the value, and that in every state that meets the invariant it is the checksum of the bytes from index 6 on. -/
def Obligations.TxckReturnsTheChecksum : Prop :=
  ∀ s : State,
    (∀ w : CommandWord, w.extractLsb' 40 8 = 0x25#8 →
      issue w s = if w.extractLsb' 0 40 = 0 then exec .txck s else .next (raise .illegalCommand s)) ∧
    (s.txst ≠ .opened → exec .txck s = .next (raise .sequenceError s)) ∧
    (s.txst = .opened → exec .txck s =
      .next { s with rc := 0, dout := BitVec.ofNat 40 ((128 - s.txacc.toNat) % 128) }) ∧
    (s.txst = .opened → Inv s → exec .txck s =
      .next { s with rc := 0, dout := 0#32 ++ checksum (s.txbuf.drop 6) })

/-- R76. In every state that meets the invariant, the sealed message satisfies the message invariant of R46. -/
def Obligations.TxendSealsTheMessage : Prop :=
  ∀ s : State,
    (∀ w : CommandWord, w.extractLsb' 40 8 = 0x26#8 →
      issue w s = if w.extractLsb' 0 40 = 0 then exec .txend s else .next (raise .illegalCommand s)) ∧
    (s.txst ≠ .opened → exec .txend s = .next (raise .sequenceError s)) ∧
    (s.txst = .opened → s.txbuf.length < 7 → exec .txend s = .next (raise .sequenceError s)) ∧
    (s.txst = .opened → 7 ≤ s.txbuf.length → exec .txend s = .next (retLength (s.txbuf.length + 2) { s with
      txbuf := s.txbuf ++ [BitVec.ofNat 8 ((128 - s.txacc.toNat) % 128), 0xF7#8], txacc := 0, txst := .sealed })) ∧
    (s.txst = .opened → 7 ≤ s.txbuf.length → Inv s →
      MessageOk s.params (s.txbuf ++ [BitVec.ofNat 8 ((128 - s.txacc.toNat) % 128), 0xF7#8]))

/-- R77; the last clause is its "always so in phase `IDLE`", for states that meet the invariant. -/
def Obligations.RdtxReadsOneByte : Prop :=
  ∀ s : State,
    (∀ w : CommandWord, w.extractLsb' 40 8 = 0x28#8 →
      issue w s = if w.extractLsb' 32 8 = 0 then exec (.rdtx (w.extractLsb' 0 32)) s
        else .next (raise .illegalCommand s)) ∧
    ∀ idx : BitVec 32,
      (s.txbuf.length ≤ idx.toNat → exec (.rdtx idx) s = .next (raise .rangeError s)) ∧
      (∀ b, memRead s.txbuf idx.toNat = some b →
        exec (.rdtx idx) s = .next { s with rc := 0, dout := 0#32 ++ b }) ∧
      (idx.toNat < s.txbuf.length → ∃ b, memRead s.txbuf idx.toNat = some b) ∧
      (s.txst = .idle → Inv s → exec (.rdtx idx) s = .next (raise .rangeError s))

/-! ## Channel -/

/-- R88, for the answers the channel gives (the list of R9's answers is the model's, log entry 4). -/
def Obligations.TxsendHandsOverTheSealedMessage : Prop :=
  ∀ s : State,
    (∀ w : CommandWord, w.extractLsb' 40 8 = 0x27#8 →
      issue w s = if w.extractLsb' 0 40 = 0 then exec .txsend s else .next (raise .illegalCommand s)) ∧
    (s.txst ≠ .sealed → exec .txsend s = .next (raise .sequenceError s)) ∧
    (∀ rest, s.txst = .sealed → s.sendAnswers = .closed :: rest →
      exec .txsend s = .next (raise .ioError { s with sendAnswers := rest, trace := s.trace ++ [.sendFailed] })) ∧
    (∀ rest, s.txst = .sealed → s.sendAnswers = .ok :: rest →
      exec .txsend s = .next (retLength s.txbuf.length { s with
        sendAnswers := rest, trace := s.trace ++ [.sent s.txbuf], txbuf := [], txacc := 0, txst := .idle }))

/-- R90, for every answer of the channel (the list of R9's answers and the mark of the wait are the model's, log entries 5
and 6). -/
def Obligations.RxrecvTakesOneMessage : Prop :=
  ∀ s : State,
    (∀ w : CommandWord, w.extractLsb' 40 8 = 0x30#8 →
      issue w s = if w.extractLsb' 0 40 = 0 then exec .rxrecv s else .next (raise .illegalCommand s)) ∧
    (∀ rest, s.recvAnswers = .closed :: rest → exec .rxrecv s = .next (raise .ioError { s with
      recvAnswers := rest, waiting := false, trace := s.trace ++ [.recvFailed] })) ∧
    (∀ rest, s.params.rxDeadline = true → s.recvAnswers = .deadline :: rest →
      exec .rxrecv s = .next (raise .timeout { s with
        recvAnswers := rest, waiting := false, trace := s.trace ++ [.recvDeadline] })) ∧
    (∀ m rest, s.recvAnswers = .message m :: rest → ¬ Fits s.params.rxcap m.length →
      exec .rxrecv s = .next (raise .overflow { s with
        recvAnswers := rest, waiting := false, trace := s.trace ++ [.received m],
        rxbuf := [], rxvalid := false, dbuf := [], dvalid := false })) ∧
    (∀ m rest, s.recvAnswers = .message m :: rest → Fits s.params.rxcap m.length →
      exec .rxrecv s = .next (retLength m.length { s with
        recvAnswers := rest, waiting := false, trace := s.trace ++ [.received m],
        rxbuf := m, rxvalid := true, dbuf := [], dvalid := false })) ∧
    (∀ rest, s.recvAnswers = .silent :: rest →
      exec .rxrecv s = .next { s with recvAnswers := rest, waiting := true }) ∧
    (s.waiting = true → (∀ rest, s.inputs ≠ .resetPin :: rest) → step s = exec .rxrecv s)

/-- The model's choices for what the lists of the channel's answers do not say. Log entry 4 (and R89: `send` is answered at
once): an unlisted answer to `send` is one of the two. Log entry 5: past the end of the listed answers `receive` is silent.
Log entry 7 (and R124): with no deadline configured a deadline ends no wait and `Timeout` is never produced. -/
def Obligations.UnlistedChannelAnswers : Prop :=
  ∀ s : State,
    (s.txst = .sealed → s.sendAnswers = [] →
      exec .txsend s = .next (raise .ioError { s with fresh := s.fresh + 1, trace := s.trace ++ [.sendFailed] }) ∨
      exec .txsend s = .next (retLength s.txbuf.length { s with
        fresh := s.fresh + 1, trace := s.trace ++ [.sent s.txbuf], txbuf := [], txacc := 0, txst := .idle })) ∧
    (s.recvAnswers = [] → exec .rxrecv s = .next { s with waiting := true }) ∧
    (∀ rest, s.params.rxDeadline = false → s.recvAnswers = .deadline :: rest →
      exec .rxrecv s = .next { s with recvAnswers := rest, waiting := true }) ∧
    (s.params.rxDeadline = false → s.rc ≠ 4 → ∀ i t, exec i s = .next t → t.rc ≠ 4)

/-! ## Receive validator -/

/-- R80. -/
def Obligations.RxvalhdrComparesTheFirstNineBytes : Prop :=
  ∀ s : State,
    (∀ w : CommandWord, w.extractLsb' 40 8 = 0x31#8 →
      issue w s = if w.extractLsb' 24 16 = 0
        then exec (.rxvalhdr (w.extractLsb' 16 8) (w.extractLsb' 8 8) (w.extractLsb' 0 8)) s
        else .next (raise .illegalCommand s)) ∧
    ∀ id cat op : Byte,
      (s.rxvalid = false → exec (.rxvalhdr id cat op) s = .next (raise .sequenceError s)) ∧
      (s.rxvalid = true → 127 < id.toNat ∨ 127 < cat.toNat ∨ 127 < op.toNat →
        exec (.rxvalhdr id cat op) s = .next (raise .rangeError s)) ∧
      (s.rxvalid = true → id.toNat ≤ 127 → cat.toNat ≤ 127 → op.toNat ≤ 127 →
        exec (.rxvalhdr id cat op) s =
          if s.rxbuf.take 9 = [0xF0#8, s.params.vendor0.setWidth 8, s.params.vendor1.setWidth 8,
              s.params.vendor2.setWidth 8, s.params.vendor3.setWidth 8, id, cat, 0#8, op]
          then .next { s with rc := 0, dout := 1 } else .next (raise .protocolMismatch s))

/-- R81. -/
def Obligations.RxackAcceptsExactlyTheTemplate : Prop :=
  ∀ s : State,
    (∀ w : CommandWord, w.extractLsb' 40 8 = 0x32#8 →
      issue w s = if w.extractLsb' 24 16 = 0
        then exec (.rxack (w.extractLsb' 16 8) (w.extractLsb' 8 8) (w.extractLsb' 0 8)) s
        else .next (raise .illegalCommand s)) ∧
    ∀ id cat op : Byte,
      (s.rxvalid = false → exec (.rxack id cat op) s = .next (raise .sequenceError s)) ∧
      (s.rxvalid = true → 127 < id.toNat ∨ 127 < cat.toNat ∨ 127 < op.toNat →
        exec (.rxack id cat op) s = .next (raise .rangeError s)) ∧
      (s.rxvalid = true → id.toNat ≤ 127 → cat.toNat ≤ 127 → op.toNat ≤ 127 →
        exec (.rxack id cat op) s =
          if s.rxbuf = [0xF0#8, s.params.vendor0.setWidth 8, s.params.vendor1.setWidth 8,
              s.params.vendor2.setWidth 8, s.params.vendor3.setWidth 8, id, cat, 0#8, op, 0xF7#8]
          then .next { s with rc := 0, dout := 1 } else .next (raise .protocolMismatch s))

/-- R82: both bits of the value, for every message held. -/
def Obligations.RxchkReportsFrameAndSum : Prop :=
  ∀ s : State,
    (∀ w : CommandWord, w.extractLsb' 40 8 = 0x33#8 →
      issue w s = if w.extractLsb' 0 40 = 0 then exec .rxchk s else .next (raise .illegalCommand s)) ∧
    (s.rxvalid = false → exec .rxchk s = .next (raise .sequenceError s)) ∧
    (s.rxvalid = true → ∃ v : Word40, exec .rxchk s = .next { s with rc := 0, dout := v } ∧ v.toNat < 4 ∧
      (v.getLsbD 1 = true ↔ 9 ≤ s.rxbuf.length ∧ memRead s.rxbuf 0 = some 0xF0#8 ∧
        memRead s.rxbuf (s.rxbuf.length - 1) = some 0xF7#8 ∧
        ∀ i, 1 ≤ i → i ≤ s.rxbuf.length - 2 → ∀ b, memRead s.rxbuf i = some b → b.toNat ≤ 127) ∧
      (v.getLsbD 0 = true ↔ 9 ≤ s.rxbuf.length ∧
        sum7 ((s.rxbuf.drop 6).take (s.rxbuf.length - 7)) = 0))

/-- R83: which messages decode, and what `DBUF` then holds; every other message raises and keeps `DBUF`. -/
def Obligations.RxdecodeDecodesThePayload : Prop :=
  ∀ s : State,
    (∀ w : CommandWord, w.extractLsb' 40 8 = 0x34#8 →
      issue w s = if w.extractLsb' 0 40 = 0 then exec .rxdecode s else .next (raise .illegalCommand s)) ∧
    (s.rxvalid = false → exec .rxdecode s = .next (raise .sequenceError s)) ∧
    (s.rxvalid = true →
      (s.rxbuf.length < 11 ∨ (s.rxbuf.length - 11) % 2 = 1 ∨
        ∃ j b, 9 ≤ j ∧ j + 2 < s.rxbuf.length ∧ memRead s.rxbuf j = some b ∧ 15 < b.toNat) →
      exec .rxdecode s = .next (raise .formatError s)) ∧
    (∀ data : Bytes, s.rxvalid = true → s.rxbuf.length = 11 + 2 * data.length →
      (∀ k b, memRead data k = some b →
        memRead s.rxbuf (9 + 2 * k) = some (BitVec.ofNat 8 (b.toNat / 16)) ∧
        memRead s.rxbuf (10 + 2 * k) = some (BitVec.ofNat 8 (b.toNat % 16))) →
      (¬ Fits s.params.dcap data.length → exec .rxdecode s = .next (raise .overflow s)) ∧
      (Fits s.params.dcap data.length →
        exec .rxdecode s = .next (retLength data.length { s with dbuf := data, dvalid := true })))

/-- R84. -/
def Obligations.RdrxReadsOneByte : Prop :=
  ∀ s : State,
    (∀ w : CommandWord, w.extractLsb' 40 8 = 0x35#8 →
      issue w s = if w.extractLsb' 32 8 = 0 then exec (.rdrx (w.extractLsb' 0 32)) s
        else .next (raise .illegalCommand s)) ∧
    ∀ idx : BitVec 32,
      (s.rxvalid = false → exec (.rdrx idx) s = .next (raise .sequenceError s)) ∧
      (s.rxvalid = true → s.rxbuf.length ≤ idx.toNat → exec (.rdrx idx) s = .next (raise .rangeError s)) ∧
      (∀ b, s.rxvalid = true → memRead s.rxbuf idx.toNat = some b →
        exec (.rdrx idx) s = .next { s with rc := 0, dout := 0#32 ++ b }) ∧
      (idx.toNat < s.rxbuf.length → ∃ b, memRead s.rxbuf idx.toNat = some b)

/-- R85. -/
def Obligations.RddReadsOneByte : Prop :=
  ∀ s : State,
    (∀ w : CommandWord, w.extractLsb' 40 8 = 0x36#8 →
      issue w s = if w.extractLsb' 32 8 = 0 then exec (.rdd (w.extractLsb' 0 32)) s
        else .next (raise .illegalCommand s)) ∧
    ∀ idx : BitVec 32,
      (s.dvalid = false → exec (.rdd idx) s = .next (raise .sequenceError s)) ∧
      (s.dvalid = true → s.dbuf.length ≤ idx.toNat → exec (.rdd idx) s = .next (raise .rangeError s)) ∧
      (∀ b, s.dvalid = true → memRead s.dbuf idx.toNat = some b →
        exec (.rdd idx) s = .next { s with rc := 0, dout := 0#32 ++ b }) ∧
      (idx.toNat < s.dbuf.length → ∃ b, memRead s.dbuf idx.toNat = some b)

/-! ## Invariants and whole-machine rules -/

/-- R28: every element's reset value (`TRACE` as at power-on); the invariant of R27 holds there. The capacities of the
machine of `State.reset` are the spec's default, unbounded (log entry 3). -/
def Obligations.ResetStateMeetsTheInvariant : Prop :=
  State.reset.dout = 0 ∧ State.reset.rc = 0 ∧ State.reset.err = 0 ∧ State.reset.txst = .idle ∧
  State.reset.txbuf = [] ∧ State.reset.txacc = 0 ∧ State.reset.rxvalid = false ∧ State.reset.rxbuf = [] ∧
  State.reset.dvalid = false ∧ State.reset.dbuf = [] ∧ status State.reset = 0 ∧ State.reset.trace = [] ∧
  Inv State.reset ∧ SentOk State.reset

/-- R27: the invariant of the block is kept by every step from every state that meets it. -/
def Obligations.EveryStepKeepsTheInvariant : Prop :=
  ∀ s t : State, Inv s → step s = .next t → Inv t

/-- R46: every message handed to the channel satisfies the message invariant, through every step. -/
def Obligations.EverySentMessageIsWellFormed : Prop :=
  ∀ s t : State, Inv s → SentOk s → step s = .next t → SentOk t

/-- R25, R28, R141: no step changes a parameter, and the history only grows, by at most one event; what RESET and the
hardware input leave of it is log entry 8's. -/
def Obligations.HistoryOnlyGrows : Prop :=
  ∀ s t : State, step s = .next t → t.params = s.params ∧ (t.trace = s.trace ∨ ∃ e, t.trace = s.trace ++ [e])

/-- R18: the phase changes only by the transitions listed there. -/
def Obligations.PhaseChangesOnlyAsListed : Prop :=
  ∀ (i : Instr) (s t : State), exec i s = .next t →
    t.txst = s.txst ∨
    (t.txst = .opened ∧ ∃ id, i = .txbegin id) ∨
    (s.txst = .opened ∧ t.txst = .sealed ∧ i = .txend) ∨
    (s.txst = .sealed ∧ t.txst = .idle ∧ i = .txsend ∧ t.rc = 0) ∨
    (t.txst = .idle ∧ i = .reset)

/-- R23: a flag is sticky. No command but CLRERR and RESET clears one; a command that ends with error `k`, 1 to 8, leaves bit
`k-1` set (an RXRECV that is left waiting has not ended, log entry 6); and a bit that becomes set is that of the error the
command ended with. -/
def Obligations.FlagsAreSticky : Prop :=
  (∀ (i : Instr) (s t : State) (k : Nat), exec i s = .next t → i ≠ .clrerr → i ≠ .reset →
    s.err.getLsbD k = true → t.err.getLsbD k = true) ∧
  (∀ (i : Instr) (s t : State), exec i s = .next t → (i = .rxrecv → t.waiting = false) → t.rc ≠ 0 →
    t.rc.toNat ≤ 8 ∧ t.err.getLsbD (t.rc.toNat - 1) = true) ∧
  (∀ (i : Instr) (s t : State) (k : Nat), exec i s = .next t →
    s.err.getLsbD k = false → t.err.getLsbD k = true → t.rc.toNat = k + 1)

/-- R131: a set flag changes nothing in what a command does. CLRERR and RDSTAT return the flags. -/
def Obligations.FlagsAreNoInput : Prop :=
  ∀ (i : Instr) (s t u : State) (e : BitVec 8), i ≠ .clrerr → i ≠ .rdstat →
    exec i s = .next t → exec i { s with err := e } = .next u → u = { t with err := u.err }

/-- R33, R34, R31: which commands write which buffer, through the read of one byte. Appending keeps every byte that stands
and stores only at the end; nothing else stores but by replacing a whole buffer. -/
def Obligations.BuffersKeepTheirBytes : Prop :=
  ∀ (i : Instr) (s t : State), exec i s = .next t →
    (i ≠ .rxrecv → i ≠ .reset → ∀ a, memRead (buffer .rx t) a = memRead (buffer .rx s) a) ∧
    (i ≠ .rxdecode → i ≠ .rxrecv → i ≠ .reset → ∀ a, memRead (buffer .d t) a = memRead (buffer .d s) a) ∧
    (isAppend i = false → (∀ id, i ≠ .txbegin id) → i ≠ .txend → i ≠ .txsend → i ≠ .reset →
      ∀ a, memRead (buffer .tx t) a = memRead (buffer .tx s) a) ∧
    (isAppend i = true ∨ i = .txend → ∀ a, a < s.txbuf.length →
      memRead (buffer .tx t) a = memRead (buffer .tx s) a) ∧
    (t.rc ≠ 0 → i ≠ .rxrecv → ∀ sp a, memRead (buffer sp t) a = memRead (buffer sp s) a)

/-- R31: the elements that are no buffer, and which commands write them. R31 has RXVALID, DVALID, TXACC and TRACE; the clauses
on `sendAnswers`, `recvAnswers`, `waiting`, `inputs` and `params` are about the model's own fields (log entries 4, 5, 6, 1
and 2). -/
def Obligations.OtherElementsHaveTheirWriters : Prop :=
  ∀ (i : Instr) (s t : State), exec i s = .next t →
    (t.rxvalid ≠ s.rxvalid → i = .rxrecv ∨ i = .reset) ∧
    (t.dvalid ≠ s.dvalid → i = .rxdecode ∨ i = .rxrecv ∨ i = .reset) ∧
    (t.txacc ≠ s.txacc → isAppend i = true ∨ (∃ id, i = .txbegin id) ∨ i = .txend ∨ i = .txsend ∨ i = .reset) ∧
    (t.trace ≠ s.trace → i = .txsend ∨ i = .rxrecv) ∧
    (t.sendAnswers ≠ s.sendAnswers → i = .txsend) ∧
    (t.recvAnswers ≠ s.recvAnswers ∨ t.waiting ≠ s.waiting → i = .rxrecv) ∧
    t.inputs = s.inputs ∧ t.params = s.params

/-- R127: a command ends with `SequenceError` exactly for the causes listed there. -/
def Obligations.SequenceErrorHasTheListedCauses : Prop :=
  ∀ (i : Instr) (s : State), EndsWith i s .sequenceError ↔ SequenceCause i s

/-- R130 with the order of checks of R129: a command ends with `RangeError` exactly for the causes listed there, when no
`SequenceError` comes before it. -/
def Obligations.RangeErrorHasTheListedCauses : Prop :=
  ∀ (i : Instr) (s : State), EndsWith i s .rangeError ↔ RangeCause i s ∧ ¬ SequenceCause i s

/-- R132: with unbounded capacities no command ends with `Overflow`. -/
def Obligations.OverflowNeedsACapacity : Prop :=
  ∀ (i : Instr) (s : State), s.params.txcap = none → s.params.rxcap = none → s.params.dcap = none →
    ¬ EndsWith i s .overflow

/-- R43: an operand outside its domain leaves the word legal: it decodes to its command, which ends in every state with an
error that is not `IllegalCommand`. -/
def Obligations.OperandsOutsideTheirDomainRaise : Prop :=
  ∀ (i : Instr) (s t : State), i.inDomain = false → exec i s = .next t →
    decode (encode i) = .command i ∧ t.rc ≠ 0 ∧ t.rc ≠ 7 ∧ t = { s with rc := t.rc, dout := 0, err := t.err }

/-! ## Messages -/

/-- R98: the expansion of `REQ_RESCAN`, from any state of a block that accepts commands, leaves the message of R57 sealed. -/
def Obligations.RescanRequestIsBuilt : Prop :=
  ∀ (s : State) (id : Byte), s.waiting = false → id.toNat ≤ 127 → Fits s.params.txcap 10 →
    ∃ t, runCommands (reqRescan s.params id) s = .next t ∧ t.rc = 0 ∧ t.dout = 10 ∧ t.txst = .sealed ∧
      t.txbuf = messageStart s.params id ++ [byteOf7 s.params.catFile, 8, checksum [byteOf7 s.params.catFile, 8], 0xF7]

/-- R99: the expansion of `REQ_DOWNLOAD` leaves the message of R54 sealed; a path with a null or a non-ASCII byte stops it
with `FormatError`, the message left open. -/
def Obligations.DownloadRequestIsBuilt : Prop :=
  ∀ (s : State) (id : Byte), s.waiting = false → id.toNat ≤ 127 →
    (∀ path : Bytes, (∀ c ∈ path, 1 ≤ c.toNat ∧ c.toNat ≤ 127) → Fits s.params.txcap (10 + path.length) →
      ∃ t, runCommands (reqDownload s.params id path) s = .next t ∧ t.rc = 0 ∧ t.txst = .sealed ∧
        t.txbuf = messageStart s.params id ++ ([byteOf7 s.params.catFile, 2] ++ path) ++
          [checksum ([byteOf7 s.params.catFile, 2] ++ path), 0xF7] ∧
        t.trace = s.trace) ∧
    (∀ (path rest : Bytes) (c : Byte), (∀ c ∈ path, 1 ≤ c.toNat ∧ c.toNat ≤ 127) → c.toNat = 0 ∨ 127 < c.toNat →
      Fits s.params.txcap (10 + path.length) →
      ∃ t, runCommands (reqDownload s.params id (path ++ c :: rest)) s = .next t ∧ t.rc = 2 ∧ t.txst = .opened ∧
        t.txbuf = messageStart s.params id ++ ([byteOf7 s.params.catFile, 2] ++ path) ∧ t.trace = s.trace)

/-- R100: the expansion of `REQ_UPLOAD` leaves the message of R56 sealed: opcode 4, the path, its terminator 0, the create
flag, offset and length as packed integers, the chunk's nibbles. -/
def Obligations.UploadRequestIsBuilt : Prop :=
  ∀ (s : State) (id : Byte) (path chunk : Bytes) (offset : BitVec 32), s.waiting = false → id.toNat ≤ 127 →
    (∀ c ∈ path, 1 ≤ c.toNat ∧ c.toNat ≤ 127) → chunk.length < 2 ^ 32 →
    Fits s.params.txcap (22 + path.length + 2 * chunk.length) →
    ∃ t, runCommands (reqUpload s.params id path offset chunk) s = .next t ∧ t.rc = 0 ∧ t.txst = .sealed ∧
      (∃ body : Bytes,
        body = [byteOf7 s.params.catFile, 4] ++ path ++ [0, if offset = 0 then 1 else 0] ++ packInteger offset ++
          packInteger (BitVec.ofNat 32 chunk.length) ++ nibbleEncodeAll chunk ∧
        t.txbuf = messageStart s.params id ++ body ++ [checksum body, 0xF7]) ∧
      t.txbuf.length = 22 + path.length + 2 * chunk.length ∧ t.trace = s.trace

/-- R55, R83, R133 and S8 of 95_test_vectors.md: a Download response carrying a file passes the header check and decodes to
that file, whatever its checksum byte. -/
def Obligations.DownloadedFileRoundTrips : Prop :=
  ∀ (s : State) (id cs : Byte) (file : Bytes),
    s.rxvalid = true → s.rxbuf = downloadResponse s.params id file cs → id.toNat ≤ 127 →
    Fits s.params.dcap file.length →
    exec (.rxvalhdr id (byteOf7 s.params.catFile) 2) s = .next { s with rc := 0, dout := 1 } ∧
    exec .rxdecode s = .next (retLength file.length { s with dbuf := file, dvalid := true })

/-- R82 (corner case), R46: a message sealed by this block and looped back gives `0b11`. -/
def Obligations.LoopedBackMessageChecks : Prop :=
  ∀ u s : State, Inv u → u.txst = .sealed → s.rxvalid = true → s.rxbuf = u.txbuf →
    exec .rxchk s = .next { s with rc := 0, dout := 3 }

/-- R102: the chunks cover the data in order, `ceil(N/512)` of them, each 1 to 512 bytes at offset `512·c`, and the create
flag is 1 on exactly the first and 0 on every other (for offsets that a packed integer holds); empty data need no request and succeed. -/
def Obligations.ChunksCoverTheData : Prop :=
  ∀ data : Bytes,
    ((chunks data).map Prod.snd).flatten = data ∧ (chunks data).length = (data.length + 511) / 512 ∧
    (∀ k offset chunk, (chunks data)[k]? = some (offset, chunk) →
      offset = 512 * k ∧ chunk.length = min 512 (data.length - 512 * k) ∧ 1 ≤ chunk.length ∧
      (offset < 2 ^ 32 → createFlag (BitVec.ofNat 32 offset) = if k = 0 then 1 else 0)) ∧
    ∀ (id : Byte) (path : Bytes) (s : State), upload id path [] s = (.success, s)

/-- R101: a Download that the device answers, at once or after any number of silent turns of the wait, hands the caller the
file; what went over the channel is one Download request (R54) and that response (R55). The answers stand in the lists of log
entries 4 and 5. -/
def Obligations.DownloadReturnsTheFile : Prop :=
  ∀ (s : State) (id cs : Byte) (path file : Bytes) (silences : Nat) (sends : List SendAnswer) (rest : List RecvAnswer),
    s.waiting = false → id.toNat ≤ 127 → (∀ c ∈ path, 1 ≤ c.toNat ∧ c.toNat ≤ 127) → file.length < 2 ^ 32 →
    Fits s.params.txcap (10 + path.length) → Fits s.params.rxcap (11 + 2 * file.length) →
    Fits s.params.dcap file.length → s.sendAnswers = .ok :: sends →
    s.recvAnswers = List.replicate silences .silent ++ .message (downloadResponse s.params id file cs) :: rest →
    ∃ t, download id path s = (.bytes file, t) ∧ t.rc = 0 ∧ t.waiting = false ∧
      t.sendAnswers = sends ∧ t.recvAnswers = rest ∧
      t.trace = s.trace ++
        [.sent (messageStart s.params id ++ ([byteOf7 s.params.catFile, 2] ++ path) ++
          [checksum ([byteOf7 s.params.catFile, 2] ++ path), 0xF7]),
        .received (downloadResponse s.params id file cs)]
end

