-- ==== Sys2Proof/Laws/Codec.lean ====
section
/-! SUPPORT. The pure functions of 40_codec_functions.md as arithmetic: one lemma per function. -/

namespace Sys2Proof.Machine

theorem sumBytes_append (s t : Bytes) : sumBytes (s ++ t) = sumBytes s + sumBytes t := by simp [sumBytes]

theorem sumBytes_singleton (b : Byte) : sumBytes [b] = b.toNat := by simp [sumBytes]

/-- A byte of a small enough number (R7). -/
theorem toNat_ofNat_byte {n : Nat} (h : n < 256) : (BitVec.ofNat 8 n).toNat = n := by
  rw [BitVec.toNat_ofNat]; exact Nat.mod_eq_of_lt h

/-- The completion of a sum (R61). -/
theorem toNat_checksumOfSum (acc : Nat) : (checksumOfSum acc).toNat = (128 - acc) % 128 := by
  simp only [checksumOfSum, Config.modulus]
  exact toNat_ofNat_byte (by omega)

/-- The accumulator after an append (41_tx_builder.md R79). -/
theorem toNat_accumulate (acc : BitVec 7) (s : Bytes) : (accumulate acc s).toNat = (acc.toNat + sumBytes s) % 128 := by
  simp [accumulate, Config.modulus]

theorem nibbleHi_eq (b : Byte) : nibbleHi b = BitVec.ofNat 8 (b.toNat / 16) := by
  apply BitVec.eq_of_toNat_eq
  have := b.isLt
  simp [nibbleHi, Nat.shiftRight_eq_div_pow]
  omega

theorem nibbleLo_eq (b : Byte) : nibbleLo b = BitVec.ofNat 8 (b.toNat % 16) := by
  apply BitVec.eq_of_toNat_eq
  simp only [nibbleLo, BitVec.toNat_and, BitVec.toNat_ofNat]
  have : b.toNat &&& 15 % 2 ^ 8 = b.toNat % 16 := Nat.and_two_pow_sub_one_eq_mod b.toNat 4
  rw [this]
  omega

/-- Both nibbles are in 0..15 (R62). -/
theorem nibbles_le (b : Byte) : (nibbleHi b).toNat ≤ 15 ∧ (nibbleLo b).toNat ≤ 15 := by
  have := b.isLt
  rw [nibbleHi_eq, nibbleLo_eq, toNat_ofNat_byte (by omega), toNat_ofNat_byte (by omega)]
  omega

/-- In its domain `nibbleDecode` is `16·hi + lo` (R63). -/
theorem nibbleDecode_of_le (hi lo : Byte) (h : hi.toNat ≤ 15) (h' : lo.toNat ≤ 15) :
    nibbleDecode hi lo = some (BitVec.ofNat 8 (16 * hi.toNat + lo.toNat)) := by
  have e : hi <<< 4 ||| lo = BitVec.ofNat 8 (16 * hi.toNat + lo.toNat) := by
    apply BitVec.eq_of_toNat_eq
    simp only [BitVec.toNat_or, BitVec.toNat_shiftLeft, BitVec.toNat_ofNat]
    rw [Nat.mod_eq_of_lt (by rw [Nat.shiftLeft_eq]; omega), ← Nat.shiftLeft_add_eq_or_of_lt (by omega),
      Nat.shiftLeft_eq]
    omega
  simp [nibbleDecode, isNibble, h, h', e]

/-- Outside its domain `nibbleDecode` has no value (R63). -/
theorem nibbleDecode_of_lt (hi lo : Byte) (h : 15 < hi.toNat ∨ 15 < lo.toNat) : nibbleDecode hi lo = none := by
  simp [nibbleDecode, isNibble]
  omega

theorem packDigit_seven (v : BitVec 32) (n : Nat) : packDigit v n 0x7F#8 = BitVec.ofNat 8 (v.toNat / 2 ^ n % 128) := by
  apply BitVec.eq_of_toNat_eq
  simp only [packDigit, BitVec.toNat_and, BitVec.toNat_ofNat, BitVec.toNat_setWidth, BitVec.toNat_ushiftRight,
    Nat.shiftRight_eq_div_pow]
  have : (v.toNat / 2 ^ n % 2 ^ 8) &&& 127 % 2 ^ 8 = (v.toNat / 2 ^ n % 2 ^ 8) % 128 :=
    Nat.and_two_pow_sub_one_eq_mod _ 7
  rw [this]
  omega

theorem packDigit_top (v : BitVec 32) : packDigit v 28 0x0F#8 = BitVec.ofNat 8 (v.toNat / 2 ^ 28) := by
  apply BitVec.eq_of_toNat_eq
  simp only [packDigit, BitVec.toNat_and, BitVec.toNat_ofNat, BitVec.toNat_setWidth, BitVec.toNat_ushiftRight,
    Nat.shiftRight_eq_div_pow]
  have : (v.toNat / 2 ^ 28 % 2 ^ 8) &&& 15 % 2 ^ 8 = (v.toNat / 2 ^ 28 % 2 ^ 8) % 16 :=
    Nat.and_two_pow_sub_one_eq_mod _ 4
  rw [this]
  have := v.isLt
  omega

/-- The five digits of a packed integer by division (R66). -/
theorem packInteger_eq (v : BitVec 32) :
    packInteger v = [BitVec.ofNat 8 (v.toNat / 2 ^ 28), BitVec.ofNat 8 (v.toNat / 2 ^ 21 % 128),
      BitVec.ofNat 8 (v.toNat / 2 ^ 14 % 128), BitVec.ofNat 8 (v.toNat / 2 ^ 7 % 128),
      BitVec.ofNat 8 (v.toNat % 128)] := by
  simp only [packInteger, packDigit_seven, packDigit_top]
  simp

theorem digitsInDomain_iff (d4 d3 d2 d1 d0 : Byte) : digitsInDomain d4 d3 d2 d1 d0 = true ↔
    d4.toNat ≤ 15 ∧ d3.toNat ≤ 127 ∧ d2.toNat ≤ 127 ∧ d1.toNat ≤ 127 ∧ d0.toNat ≤ 127 := by
  simp [digitsInDomain, sevenBitSafe, and_assoc]

theorem expectedInDomain_iff (id cat op : Byte) : expectedInDomain id cat op = true ↔
    id.toNat ≤ 127 ∧ cat.toNat ≤ 127 ∧ op.toNat ≤ 127 := by
  simp [expectedInDomain, sevenBitSafe, and_assoc]

/-- A 7-bit parameter is a 7-bit-safe byte (00_scope.md R6). -/
theorem byteOf7_le (b : BitVec 7) : (byteOf7 b).toNat ≤ 127 := by
  have := b.isLt
  simp [byteOf7]
  omega

end Sys2Proof.Machine
end

