-- ==== Sys2Proof/Laws/Decode.lean ====
section
/-! SUPPORT. The fields of a word that the encoder laid out (30_encoding.md R40, R41), one lemma per field per form. -/

namespace Sys2Proof

/-- A field of bits as a number. -/
theorem toNat_extract {n : Nat} (x : BitVec n) (low width : Nat) :
    (x.extractLsb' low width).toNat = x.toNat / 2 ^ low % 2 ^ width := by
  simp [BitVec.extractLsb'_toNat, Nat.shiftRight_eq_div_pow]

/-- Two fields side by side as a number. -/
theorem toNat_append {a b : Nat} (x : BitVec a) (y : BitVec b) : (x ++ y).toNat = x.toNat * 2 ^ b + y.toNat := by
  rw [BitVec.toNat_append, ← Nat.shiftLeft_add_eq_or_of_lt y.isLt, Nat.shiftLeft_eq]

@[simp] theorem opcField_append (opc : BitVec 8) (arg : Word40) : opcField (opc ++ arg) = opc := by
  apply BitVec.eq_of_toNat_eq
  have := opc.isLt; have := arg.isLt
  simp only [opcField, toNat_extract, toNat_append]
  omega

@[simp] theorem argField_append (opc : BitVec 8) (arg : Word40) : argField (opc ++ arg) = arg := by
  apply BitVec.eq_of_toNat_eq
  have := opc.isLt; have := arg.isLt
  simp only [argField, toNat_extract, toNat_append]
  omega

/-- A word is its two fields. -/
theorem word_eq_fields (w : CommandWord) : opcField w ++ argField w = w := by
  apply BitVec.eq_of_toNat_eq
  have := w.isLt
  simp only [opcField, argField, toNat_extract, toNat_append]
  omega

@[simp] theorem opcField_encode (i : Instr) : opcField (encode i) = i.opcode := opcField_append _ _

@[simp] theorem argField_encode (i : Instr) : argField (encode i) = i.argument := argField_append _ _

@[simp] theorem lane_zero_argB (b : Byte) : lane 0 (argB b) = b := by
  apply BitVec.eq_of_toNat_eq
  have := b.isLt
  simp only [lane, argB, toNat_extract, toNat_append, BitVec.toNat_ofNat]
  omega

@[simp] theorem unusedZero_argB (b : Byte) : Form.b.unusedZero (argB b) = true := by
  have h : (argB b).extractLsb' 8 32 = 0#32 := by
    apply BitVec.eq_of_toNat_eq
    have := b.isLt
    simp only [argB, toNat_extract, toNat_append, BitVec.toNat_ofNat]
    omega
  simp [Form.unusedZero, h]

@[simp] theorem lane_zero_argHL (hi lo : Byte) : lane 0 (argHL hi lo) = lo := by
  apply BitVec.eq_of_toNat_eq
  have := hi.isLt; have := lo.isLt
  simp only [lane, argHL, toNat_extract, toNat_append, BitVec.toNat_ofNat]
  omega

@[simp] theorem lane_one_argHL (hi lo : Byte) : lane 1 (argHL hi lo) = hi := by
  apply BitVec.eq_of_toNat_eq
  have := hi.isLt; have := lo.isLt
  simp only [lane, argHL, toNat_extract, toNat_append, BitVec.toNat_ofNat]
  omega

@[simp] theorem unusedZero_argHL (hi lo : Byte) : Form.hl.unusedZero (argHL hi lo) = true := by
  have h : (argHL hi lo).extractLsb' 16 24 = 0#24 := by
    apply BitVec.eq_of_toNat_eq
    have := hi.isLt; have := lo.isLt
    simp only [argHL, toNat_extract, toNat_append, BitVec.toNat_ofNat]
    omega
  simp [Form.unusedZero, h]

@[simp] theorem lane_zero_argT (id cat op : Byte) : lane 0 (argT id cat op) = op := by
  apply BitVec.eq_of_toNat_eq
  have := id.isLt; have := cat.isLt; have := op.isLt
  simp only [lane, argT, toNat_extract, toNat_append, BitVec.toNat_ofNat]
  omega

@[simp] theorem lane_one_argT (id cat op : Byte) : lane 1 (argT id cat op) = cat := by
  apply BitVec.eq_of_toNat_eq
  have := id.isLt; have := cat.isLt; have := op.isLt
  simp only [lane, argT, toNat_extract, toNat_append, BitVec.toNat_ofNat]
  omega

@[simp] theorem lane_two_argT (id cat op : Byte) : lane 2 (argT id cat op) = id := by
  apply BitVec.eq_of_toNat_eq
  have := id.isLt; have := cat.isLt; have := op.isLt
  simp only [lane, argT, toNat_extract, toNat_append, BitVec.toNat_ofNat]
  omega

@[simp] theorem unusedZero_argT (id cat op : Byte) : Form.t.unusedZero (argT id cat op) = true := by
  have h : (argT id cat op).extractLsb' 24 16 = 0#16 := by
    apply BitVec.eq_of_toNat_eq
    have := id.isLt; have := cat.isLt; have := op.isLt
    simp only [argT, toNat_extract, toNat_append, BitVec.toNat_ofNat]
    omega
  simp [Form.unusedZero, h]

@[simp] theorem lane_zero_argD (d4 d3 d2 d1 d0 : Byte) : lane 0 (argD d4 d3 d2 d1 d0) = d0 := by
  apply BitVec.eq_of_toNat_eq
  have := d4.isLt; have := d3.isLt; have := d2.isLt; have := d1.isLt; have := d0.isLt
  simp only [lane, argD, toNat_extract, toNat_append]
  omega

@[simp] theorem lane_one_argD (d4 d3 d2 d1 d0 : Byte) : lane 1 (argD d4 d3 d2 d1 d0) = d1 := by
  apply BitVec.eq_of_toNat_eq
  have := d4.isLt; have := d3.isLt; have := d2.isLt; have := d1.isLt; have := d0.isLt
  simp only [lane, argD, toNat_extract, toNat_append]
  omega

@[simp] theorem lane_two_argD (d4 d3 d2 d1 d0 : Byte) : lane 2 (argD d4 d3 d2 d1 d0) = d2 := by
  apply BitVec.eq_of_toNat_eq
  have := d4.isLt; have := d3.isLt; have := d2.isLt; have := d1.isLt; have := d0.isLt
  simp only [lane, argD, toNat_extract, toNat_append]
  omega

@[simp] theorem lane_three_argD (d4 d3 d2 d1 d0 : Byte) : lane 3 (argD d4 d3 d2 d1 d0) = d3 := by
  apply BitVec.eq_of_toNat_eq
  have := d4.isLt; have := d3.isLt; have := d2.isLt; have := d1.isLt; have := d0.isLt
  simp only [lane, argD, toNat_extract, toNat_append]
  omega

@[simp] theorem lane_four_argD (d4 d3 d2 d1 d0 : Byte) : lane 4 (argD d4 d3 d2 d1 d0) = d4 := by
  apply BitVec.eq_of_toNat_eq
  have := d4.isLt; have := d3.isLt; have := d2.isLt; have := d1.isLt; have := d0.isLt
  simp only [lane, argD, toNat_extract, toNat_append]
  omega

@[simp] theorem valueField_argV (v : BitVec 32) : valueField (argV v) = v := by
  apply BitVec.eq_of_toNat_eq
  have := v.isLt
  simp only [valueField, argV, toNat_extract, toNat_append, BitVec.toNat_ofNat]
  omega

@[simp] theorem unusedZero_argV (v : BitVec 32) : Form.v.unusedZero (argV v) = true := by
  have h : (argV v).extractLsb' 32 8 = 0#8 := by
    apply BitVec.eq_of_toNat_eq
    have := v.isLt
    simp only [argV, toNat_extract, toNat_append, BitVec.toNat_ofNat]
    omega
  simp [Form.unusedZero, h]

@[simp] theorem unusedZero_n : Form.n.unusedZero 0#40 = true := rfl

@[simp] theorem unusedZero_d (arg : Word40) : Form.d.unusedZero arg = true := rfl

/-! ## The argument rebuilt from its fields, when the unused bits are 0 -/

theorem argB_lane (arg : Word40) (h : Form.b.unusedZero arg = true) : argB (lane 0 arg) = arg := by
  have h : arg.extractLsb' 8 32 = 0#32 := by simpa [Form.unusedZero] using h
  have h := congrArg BitVec.toNat h
  apply BitVec.eq_of_toNat_eq
  have := arg.isLt
  simp only [argB, lane, toNat_extract, toNat_append, BitVec.toNat_ofNat] at *
  omega

theorem argHL_lane (arg : Word40) (h : Form.hl.unusedZero arg = true) : argHL (lane 1 arg) (lane 0 arg) = arg := by
  have h : arg.extractLsb' 16 24 = 0#24 := by simpa [Form.unusedZero] using h
  have h := congrArg BitVec.toNat h
  apply BitVec.eq_of_toNat_eq
  have := arg.isLt
  simp only [argHL, lane, toNat_extract, toNat_append, BitVec.toNat_ofNat] at *
  omega

theorem argT_lane (arg : Word40) (h : Form.t.unusedZero arg = true) :
    argT (lane 2 arg) (lane 1 arg) (lane 0 arg) = arg := by
  have h : arg.extractLsb' 24 16 = 0#16 := by simpa [Form.unusedZero] using h
  have h := congrArg BitVec.toNat h
  apply BitVec.eq_of_toNat_eq
  have := arg.isLt
  simp only [argT, lane, toNat_extract, toNat_append, BitVec.toNat_ofNat] at *
  omega

theorem argV_valueField (arg : Word40) (h : Form.v.unusedZero arg = true) : argV (valueField arg) = arg := by
  have h : arg.extractLsb' 32 8 = 0#8 := by simpa [Form.unusedZero] using h
  have h := congrArg BitVec.toNat h
  apply BitVec.eq_of_toNat_eq
  have := arg.isLt
  simp only [argV, valueField, toNat_extract, toNat_append, BitVec.toNat_ofNat] at *
  omega

theorem argD_lane (arg : Word40) :
    argD (lane 4 arg) (lane 3 arg) (lane 2 arg) (lane 1 arg) (lane 0 arg) = arg := by
  apply BitVec.eq_of_toNat_eq
  have := arg.isLt
  simp only [argD, lane, toNat_extract, toNat_append] at *
  omega

/-- A word decodes to a command exactly when its opcode has one and the bits its form does not use are 0 (R42, R43). -/
theorem decode_command_iff {w : CommandWord} {i : Instr} :
    decode w = .command i ↔
      ∃ f, commandOf (opcField w) (argField w) = some (f, i) ∧ f.unusedZero (argField w) = true := by
  unfold decode decodeFields
  cases h : commandOf (opcField w) (argField w) with
  | none => simp
  | some p => obtain ⟨f, j⟩ := p; by_cases hz : f.unusedZero (argField w) = true <;> simp [hz]

/-- A field of `arg` is a field of the word (R40). -/
theorem argField_extract (w : CommandWord) (low width : Nat) (h : low + width ≤ 40) :
    (argField w).extractLsb' low width = w.extractLsb' low width := by
  apply BitVec.eq_of_getLsbD_eq
  intro i hi
  simp only [argField, BitVec.getLsbD_extractLsb']
  have : low + i < 40 := by omega
  simp [this, hi]

end Sys2Proof
end

