-- ==== Sys2Proof/Laws/Memory.lean ====
section
/-! SUPPORT. The byte memories (20_memory.md R33 to R35): reads after an append, the (address, byte) form of a buffer is
canonical and every memory operation keeps it so, and it holds at reset (log entry 11). -/

namespace Sys2Proof.Machine

/-- A byte below the length that stood before an append reads as before (R34, R35). -/
theorem memRead_append_of_lt (buf s : Bytes) (i : Nat) (h : i < buf.length) :
    memRead (append buf s) i = memRead buf i := by
  simp [memRead, append, List.getElem?_append_left h]

/-- The appended bytes land, in order, from the old length on (R35). -/
theorem memRead_append_of_le (buf s : Bytes) (i : Nat) (h : buf.length ≤ i) :
    memRead (append buf s) i = memRead s (i - buf.length) := by
  simp [memRead, append, List.getElem?_append_right h]

/-- The length grows by the number of bytes appended (R35). -/
@[simp] theorem length_append_bytes (buf s : Bytes) : (append buf s).length = buf.length + s.length := by
  simp [append]

/-- An index at or beyond the length addresses nothing (R33). -/
theorem memRead_eq_none_iff (buf : Bytes) (i : Nat) : memRead buf i = none ↔ buf.length ≤ i := by
  simp [memRead]

/-- Two buffers that read the same at every index are the same. -/
theorem bytes_ext (b c : Bytes) (h : ∀ a, memRead b a = memRead c a) : b = c := List.ext_getElem? h

theorem cellsFrom_addresses (base : Nat) (buf : Bytes) :
    (cellsFrom base buf).map Prod.fst = List.range' base buf.length := by
  induction buf generalizing base with
  | nil => rfl
  | cons b rest ih => simp [cellsFrom, ih, List.range'_succ]

@[simp] theorem cellsFrom_length (base : Nat) (buf : Bytes) : (cellsFrom base buf).length = buf.length := by
  simpa using congrArg List.length (cellsFrom_addresses base buf)

/-- Every buffer, as (address, byte) pairs, is in canonical form. -/
theorem cells_wf (buf : Bytes) : Memory.wf (cells buf) = true := by
  simp [Memory.wf, cells, cellsFrom_addresses, List.range_eq_range']

theorem cellRead_cellsFrom (base : Nat) (buf : Bytes) (a : Nat) :
    cellRead (cellsFrom base buf) (base + a) = memRead buf a := by
  induction buf generalizing base a with
  | nil => rfl
  | cons b rest ih =>
    cases a with
    | zero => simp [cellRead, cellsFrom, memRead]
    | succ a =>
      have h := ih (base + 1) a
      rw [Nat.add_assoc, Nat.add_comm 1 a] at h
      simpa [cellRead, cellsFrom, memRead] using h

/-- Reading through an address is reading through an index. -/
theorem cellRead_cells (buf : Bytes) (a : Nat) : cellRead (cells buf) a = memRead buf a := by
  simpa [cells] using cellRead_cellsFrom 0 buf a

/-- Equal memories are equal data, and only they. -/
theorem cells_inj (b c : Bytes) : cells b = cells c ↔ b = c := by
  constructor
  · intro h
    apply bytes_ext
    intro a
    rw [← cellRead_cells, h, cellRead_cells]
  · rintro rfl; rfl

/-- The memory operations keep the canonical form: an append (R35) and every whole-buffer replacement (R34). -/
theorem append_keeps_wf (buf s : Bytes) : Memory.wf (cells (append buf s)) = true := cells_wf _

/-- Every buffer of every state, that after reset among them, is in canonical form. -/
theorem buffer_wf (sp : Space) (s : State) : Memory.wf (cells (buffer sp s)) = true := cells_wf _

theorem reset_buffers_wf : ∀ sp, Memory.wf (cells (buffer sp State.reset)) = true := by
  intro sp; exact cells_wf _

/-- The capacity check as the statements word it (00_scope.md R6). -/
theorem withinCapacity_iff_fits (capacity : Option Nat) (n : Nat) :
    withinCapacity capacity n = true ↔ Fits capacity n := by
  cases capacity <;> simp [withinCapacity, Fits]

/-- The comparison in sequence succeeds exactly when the template is the beginning of the message (42_rx_validator.md R80). -/
theorem startsWith_iff (m template : Bytes) : startsWith m template = true ↔ m.take template.length = template := by
  induction template generalizing m with
  | nil => cases m <;> simp [startsWith]
  | cons t rest ih =>
    cases m with
    | nil => simp [startsWith]
    | cons b m => simp [startsWith, ih]

/-- Decoding pairs succeeds exactly on the nibble encoding of what it gives, and never on an odd length. -/
theorem nibbleDecodeAll_cons (hi lo : Byte) (rest bs : Bytes) :
    nibbleDecodeAll (hi :: lo :: rest) = some bs ↔
      ∃ b bs', nibbleDecode hi lo = some b ∧ nibbleDecodeAll rest = some bs' ∧ bs = b :: bs' := by
  simp only [nibbleDecodeAll]
  cases nibbleDecode hi lo <;> cases nibbleDecodeAll rest <;> simp [eq_comm]

end Sys2Proof.Machine
end

