-- ==== Sys2Proof/Laws/State.lean ====
section
/-! SUPPORT. One lemma per field per update of the state, true by rfl, so that no proof unfolds a record update. -/

namespace Sys2Proof.Machine

/-! ## raise -/

@[simp] theorem raise_dout (e : ErrKind) (s : State) : (raise e s).dout = 0 := rfl
@[simp] theorem raise_rc (e : ErrKind) (s : State) : (raise e s).rc = e.code := rfl
@[simp] theorem raise_err (e : ErrKind) (s : State) : (raise e s).err = setFlag s.err e := rfl
@[simp] theorem raise_txst (e : ErrKind) (s : State) : (raise e s).txst = s.txst := rfl
@[simp] theorem raise_txbuf (e : ErrKind) (s : State) : (raise e s).txbuf = s.txbuf := rfl
@[simp] theorem raise_txacc (e : ErrKind) (s : State) : (raise e s).txacc = s.txacc := rfl
@[simp] theorem raise_rxvalid (e : ErrKind) (s : State) : (raise e s).rxvalid = s.rxvalid := rfl
@[simp] theorem raise_rxbuf (e : ErrKind) (s : State) : (raise e s).rxbuf = s.rxbuf := rfl
@[simp] theorem raise_dvalid (e : ErrKind) (s : State) : (raise e s).dvalid = s.dvalid := rfl
@[simp] theorem raise_dbuf (e : ErrKind) (s : State) : (raise e s).dbuf = s.dbuf := rfl
@[simp] theorem raise_trace (e : ErrKind) (s : State) : (raise e s).trace = s.trace := rfl
@[simp] theorem raise_params (e : ErrKind) (s : State) : (raise e s).params = s.params := rfl
@[simp] theorem raise_inputs (e : ErrKind) (s : State) : (raise e s).inputs = s.inputs := rfl
@[simp] theorem raise_sendAnswers (e : ErrKind) (s : State) : (raise e s).sendAnswers = s.sendAnswers := rfl
@[simp] theorem raise_recvAnswers (e : ErrKind) (s : State) : (raise e s).recvAnswers = s.recvAnswers := rfl
@[simp] theorem raise_waiting (e : ErrKind) (s : State) : (raise e s).waiting = s.waiting := rfl
@[simp] theorem raise_fresh (e : ErrKind) (s : State) : (raise e s).fresh = s.fresh := rfl

/-! ## ret -/

@[simp] theorem ret_dout (v : Word40) (s : State) : (ret v s).dout = v := rfl
@[simp] theorem ret_rc (v : Word40) (s : State) : (ret v s).rc = 0 := rfl
@[simp] theorem ret_err (v : Word40) (s : State) : (ret v s).err = s.err := rfl
@[simp] theorem ret_txst (v : Word40) (s : State) : (ret v s).txst = s.txst := rfl
@[simp] theorem ret_txbuf (v : Word40) (s : State) : (ret v s).txbuf = s.txbuf := rfl
@[simp] theorem ret_txacc (v : Word40) (s : State) : (ret v s).txacc = s.txacc := rfl
@[simp] theorem ret_rxvalid (v : Word40) (s : State) : (ret v s).rxvalid = s.rxvalid := rfl
@[simp] theorem ret_rxbuf (v : Word40) (s : State) : (ret v s).rxbuf = s.rxbuf := rfl
@[simp] theorem ret_dvalid (v : Word40) (s : State) : (ret v s).dvalid = s.dvalid := rfl
@[simp] theorem ret_dbuf (v : Word40) (s : State) : (ret v s).dbuf = s.dbuf := rfl
@[simp] theorem ret_trace (v : Word40) (s : State) : (ret v s).trace = s.trace := rfl
@[simp] theorem ret_params (v : Word40) (s : State) : (ret v s).params = s.params := rfl
@[simp] theorem ret_inputs (v : Word40) (s : State) : (ret v s).inputs = s.inputs := rfl
@[simp] theorem ret_sendAnswers (v : Word40) (s : State) : (ret v s).sendAnswers = s.sendAnswers := rfl
@[simp] theorem ret_recvAnswers (v : Word40) (s : State) : (ret v s).recvAnswers = s.recvAnswers := rfl
@[simp] theorem ret_waiting (v : Word40) (s : State) : (ret v s).waiting = s.waiting := rfl
@[simp] theorem ret_fresh (v : Word40) (s : State) : (ret v s).fresh = s.fresh := rfl

/-! ## record -/

@[simp] theorem record_dout (e : Event) (s : State) : (record e s).dout = s.dout := rfl
@[simp] theorem record_rc (e : Event) (s : State) : (record e s).rc = s.rc := rfl
@[simp] theorem record_err (e : Event) (s : State) : (record e s).err = s.err := rfl
@[simp] theorem record_txst (e : Event) (s : State) : (record e s).txst = s.txst := rfl
@[simp] theorem record_txbuf (e : Event) (s : State) : (record e s).txbuf = s.txbuf := rfl
@[simp] theorem record_txacc (e : Event) (s : State) : (record e s).txacc = s.txacc := rfl
@[simp] theorem record_rxvalid (e : Event) (s : State) : (record e s).rxvalid = s.rxvalid := rfl
@[simp] theorem record_rxbuf (e : Event) (s : State) : (record e s).rxbuf = s.rxbuf := rfl
@[simp] theorem record_dvalid (e : Event) (s : State) : (record e s).dvalid = s.dvalid := rfl
@[simp] theorem record_dbuf (e : Event) (s : State) : (record e s).dbuf = s.dbuf := rfl
@[simp] theorem record_trace (e : Event) (s : State) : (record e s).trace = s.trace ++ [e] := rfl
@[simp] theorem record_params (e : Event) (s : State) : (record e s).params = s.params := rfl
@[simp] theorem record_inputs (e : Event) (s : State) : (record e s).inputs = s.inputs := rfl
@[simp] theorem record_sendAnswers (e : Event) (s : State) : (record e s).sendAnswers = s.sendAnswers := rfl
@[simp] theorem record_recvAnswers (e : Event) (s : State) : (record e s).recvAnswers = s.recvAnswers := rfl
@[simp] theorem record_waiting (e : Event) (s : State) : (record e s).waiting = s.waiting := rfl
@[simp] theorem record_fresh (e : Event) (s : State) : (record e s).fresh = s.fresh := rfl

/-! ## emptyReceive -/

@[simp] theorem emptyReceive_dout (s : State) : (emptyReceive s).dout = s.dout := rfl
@[simp] theorem emptyReceive_rc (s : State) : (emptyReceive s).rc = s.rc := rfl
@[simp] theorem emptyReceive_err (s : State) : (emptyReceive s).err = s.err := rfl
@[simp] theorem emptyReceive_txst (s : State) : (emptyReceive s).txst = s.txst := rfl
@[simp] theorem emptyReceive_txbuf (s : State) : (emptyReceive s).txbuf = s.txbuf := rfl
@[simp] theorem emptyReceive_txacc (s : State) : (emptyReceive s).txacc = s.txacc := rfl
@[simp] theorem emptyReceive_rxvalid (s : State) : (emptyReceive s).rxvalid = false := rfl
@[simp] theorem emptyReceive_rxbuf (s : State) : (emptyReceive s).rxbuf = [] := rfl
@[simp] theorem emptyReceive_dvalid (s : State) : (emptyReceive s).dvalid = false := rfl
@[simp] theorem emptyReceive_dbuf (s : State) : (emptyReceive s).dbuf = [] := rfl
@[simp] theorem emptyReceive_trace (s : State) : (emptyReceive s).trace = s.trace := rfl
@[simp] theorem emptyReceive_params (s : State) : (emptyReceive s).params = s.params := rfl
@[simp] theorem emptyReceive_inputs (s : State) : (emptyReceive s).inputs = s.inputs := rfl
@[simp] theorem emptyReceive_sendAnswers (s : State) : (emptyReceive s).sendAnswers = s.sendAnswers := rfl
@[simp] theorem emptyReceive_recvAnswers (s : State) : (emptyReceive s).recvAnswers = s.recvAnswers := rfl
@[simp] theorem emptyReceive_waiting (s : State) : (emptyReceive s).waiting = s.waiting := rfl
@[simp] theorem emptyReceive_fresh (s : State) : (emptyReceive s).fresh = s.fresh := rfl

/-! ## holdMessage -/

@[simp] theorem holdMessage_dout (m : Bytes) (s : State) : (holdMessage m s).dout = s.dout := rfl
@[simp] theorem holdMessage_rc (m : Bytes) (s : State) : (holdMessage m s).rc = s.rc := rfl
@[simp] theorem holdMessage_err (m : Bytes) (s : State) : (holdMessage m s).err = s.err := rfl
@[simp] theorem holdMessage_txst (m : Bytes) (s : State) : (holdMessage m s).txst = s.txst := rfl
@[simp] theorem holdMessage_txbuf (m : Bytes) (s : State) : (holdMessage m s).txbuf = s.txbuf := rfl
@[simp] theorem holdMessage_txacc (m : Bytes) (s : State) : (holdMessage m s).txacc = s.txacc := rfl
@[simp] theorem holdMessage_rxvalid (m : Bytes) (s : State) : (holdMessage m s).rxvalid = true := rfl
@[simp] theorem holdMessage_rxbuf (m : Bytes) (s : State) : (holdMessage m s).rxbuf = m := rfl
@[simp] theorem holdMessage_dvalid (m : Bytes) (s : State) : (holdMessage m s).dvalid = false := rfl
@[simp] theorem holdMessage_dbuf (m : Bytes) (s : State) : (holdMessage m s).dbuf = [] := rfl
@[simp] theorem holdMessage_trace (m : Bytes) (s : State) : (holdMessage m s).trace = s.trace := rfl
@[simp] theorem holdMessage_params (m : Bytes) (s : State) : (holdMessage m s).params = s.params := rfl
@[simp] theorem holdMessage_inputs (m : Bytes) (s : State) : (holdMessage m s).inputs = s.inputs := rfl
@[simp] theorem holdMessage_sendAnswers (m : Bytes) (s : State) : (holdMessage m s).sendAnswers = s.sendAnswers := rfl
@[simp] theorem holdMessage_recvAnswers (m : Bytes) (s : State) : (holdMessage m s).recvAnswers = s.recvAnswers := rfl
@[simp] theorem holdMessage_waiting (m : Bytes) (s : State) : (holdMessage m s).waiting = s.waiting := rfl
@[simp] theorem holdMessage_fresh (m : Bytes) (s : State) : (holdMessage m s).fresh = s.fresh := rfl

/-! ## keepWaiting -/

@[simp] theorem keepWaiting_dout (s : State) : (keepWaiting s).dout = s.dout := rfl
@[simp] theorem keepWaiting_rc (s : State) : (keepWaiting s).rc = s.rc := rfl
@[simp] theorem keepWaiting_err (s : State) : (keepWaiting s).err = s.err := rfl
@[simp] theorem keepWaiting_txst (s : State) : (keepWaiting s).txst = s.txst := rfl
@[simp] theorem keepWaiting_txbuf (s : State) : (keepWaiting s).txbuf = s.txbuf := rfl
@[simp] theorem keepWaiting_txacc (s : State) : (keepWaiting s).txacc = s.txacc := rfl
@[simp] theorem keepWaiting_rxvalid (s : State) : (keepWaiting s).rxvalid = s.rxvalid := rfl
@[simp] theorem keepWaiting_rxbuf (s : State) : (keepWaiting s).rxbuf = s.rxbuf := rfl
@[simp] theorem keepWaiting_dvalid (s : State) : (keepWaiting s).dvalid = s.dvalid := rfl
@[simp] theorem keepWaiting_dbuf (s : State) : (keepWaiting s).dbuf = s.dbuf := rfl
@[simp] theorem keepWaiting_trace (s : State) : (keepWaiting s).trace = s.trace := rfl
@[simp] theorem keepWaiting_params (s : State) : (keepWaiting s).params = s.params := rfl
@[simp] theorem keepWaiting_inputs (s : State) : (keepWaiting s).inputs = s.inputs := rfl
@[simp] theorem keepWaiting_sendAnswers (s : State) : (keepWaiting s).sendAnswers = s.sendAnswers := rfl
@[simp] theorem keepWaiting_recvAnswers (s : State) : (keepWaiting s).recvAnswers = s.recvAnswers := rfl
@[simp] theorem keepWaiting_waiting (s : State) : (keepWaiting s).waiting = true := rfl
@[simp] theorem keepWaiting_fresh (s : State) : (keepWaiting s).fresh = s.fresh := rfl

/-! ## resetRecord -/

@[simp] theorem resetRecord_dout (s : State) : (resetRecord s).dout = 0 := rfl
@[simp] theorem resetRecord_rc (s : State) : (resetRecord s).rc = 0 := rfl
@[simp] theorem resetRecord_err (s : State) : (resetRecord s).err = 0 := rfl
@[simp] theorem resetRecord_txst (s : State) : (resetRecord s).txst = .idle := rfl
@[simp] theorem resetRecord_txbuf (s : State) : (resetRecord s).txbuf = [] := rfl
@[simp] theorem resetRecord_txacc (s : State) : (resetRecord s).txacc = 0 := rfl
@[simp] theorem resetRecord_rxvalid (s : State) : (resetRecord s).rxvalid = false := rfl
@[simp] theorem resetRecord_rxbuf (s : State) : (resetRecord s).rxbuf = [] := rfl
@[simp] theorem resetRecord_dvalid (s : State) : (resetRecord s).dvalid = false := rfl
@[simp] theorem resetRecord_dbuf (s : State) : (resetRecord s).dbuf = [] := rfl
@[simp] theorem resetRecord_trace (s : State) : (resetRecord s).trace = s.trace := rfl
@[simp] theorem resetRecord_params (s : State) : (resetRecord s).params = s.params := rfl
@[simp] theorem resetRecord_inputs (s : State) : (resetRecord s).inputs = s.inputs := rfl
@[simp] theorem resetRecord_sendAnswers (s : State) : (resetRecord s).sendAnswers = s.sendAnswers := rfl
@[simp] theorem resetRecord_recvAnswers (s : State) : (resetRecord s).recvAnswers = s.recvAnswers := rfl
@[simp] theorem resetRecord_waiting (s : State) : (resetRecord s).waiting = s.waiting := rfl
@[simp] theorem resetRecord_fresh (s : State) : (resetRecord s).fresh = s.fresh := rfl

/-! ## hardwareReset -/

@[simp] theorem hardwareReset_dout (s : State) : (hardwareReset s).dout = 0 := rfl
@[simp] theorem hardwareReset_rc (s : State) : (hardwareReset s).rc = 0 := rfl
@[simp] theorem hardwareReset_err (s : State) : (hardwareReset s).err = 0 := rfl
@[simp] theorem hardwareReset_txst (s : State) : (hardwareReset s).txst = .idle := rfl
@[simp] theorem hardwareReset_txbuf (s : State) : (hardwareReset s).txbuf = [] := rfl
@[simp] theorem hardwareReset_txacc (s : State) : (hardwareReset s).txacc = 0 := rfl
@[simp] theorem hardwareReset_rxvalid (s : State) : (hardwareReset s).rxvalid = false := rfl
@[simp] theorem hardwareReset_rxbuf (s : State) : (hardwareReset s).rxbuf = [] := rfl
@[simp] theorem hardwareReset_dvalid (s : State) : (hardwareReset s).dvalid = false := rfl
@[simp] theorem hardwareReset_dbuf (s : State) : (hardwareReset s).dbuf = [] := rfl
@[simp] theorem hardwareReset_trace (s : State) : (hardwareReset s).trace = s.trace := rfl
@[simp] theorem hardwareReset_params (s : State) : (hardwareReset s).params = s.params := rfl
@[simp] theorem hardwareReset_inputs (s : State) : (hardwareReset s).inputs = s.inputs := rfl
@[simp] theorem hardwareReset_sendAnswers (s : State) : (hardwareReset s).sendAnswers = s.sendAnswers := rfl
@[simp] theorem hardwareReset_recvAnswers (s : State) : (hardwareReset s).recvAnswers = s.recvAnswers := rfl
@[simp] theorem hardwareReset_waiting (s : State) : (hardwareReset s).waiting = false := rfl
@[simp] theorem hardwareReset_fresh (s : State) : (hardwareReset s).fresh = s.fresh := rfl

/-! ## retLength: everything but `dout` and `fresh` -/

@[simp] theorem retLength_rc (n : Nat) (s : State) : (retLength n s).rc = 0 := by
  unfold retLength; split <;> rfl
@[simp] theorem retLength_err (n : Nat) (s : State) : (retLength n s).err = s.err := by
  unfold retLength; split <;> rfl
@[simp] theorem retLength_txst (n : Nat) (s : State) : (retLength n s).txst = s.txst := by
  unfold retLength; split <;> rfl
@[simp] theorem retLength_txbuf (n : Nat) (s : State) : (retLength n s).txbuf = s.txbuf := by
  unfold retLength; split <;> rfl
@[simp] theorem retLength_txacc (n : Nat) (s : State) : (retLength n s).txacc = s.txacc := by
  unfold retLength; split <;> rfl
@[simp] theorem retLength_rxvalid (n : Nat) (s : State) : (retLength n s).rxvalid = s.rxvalid := by
  unfold retLength; split <;> rfl
@[simp] theorem retLength_rxbuf (n : Nat) (s : State) : (retLength n s).rxbuf = s.rxbuf := by
  unfold retLength; split <;> rfl
@[simp] theorem retLength_dvalid (n : Nat) (s : State) : (retLength n s).dvalid = s.dvalid := by
  unfold retLength; split <;> rfl
@[simp] theorem retLength_dbuf (n : Nat) (s : State) : (retLength n s).dbuf = s.dbuf := by
  unfold retLength; split <;> rfl
@[simp] theorem retLength_trace (n : Nat) (s : State) : (retLength n s).trace = s.trace := by
  unfold retLength; split <;> rfl
@[simp] theorem retLength_params (n : Nat) (s : State) : (retLength n s).params = s.params := by
  unfold retLength; split <;> rfl
@[simp] theorem retLength_inputs (n : Nat) (s : State) : (retLength n s).inputs = s.inputs := by
  unfold retLength; split <;> rfl
@[simp] theorem retLength_sendAnswers (n : Nat) (s : State) : (retLength n s).sendAnswers = s.sendAnswers := by
  unfold retLength; split <;> rfl
@[simp] theorem retLength_recvAnswers (n : Nat) (s : State) : (retLength n s).recvAnswers = s.recvAnswers := by
  unfold retLength; split <;> rfl
@[simp] theorem retLength_waiting (n : Nat) (s : State) : (retLength n s).waiting = s.waiting := by
  unfold retLength; split <;> rfl

/-! ## sendAsked: everything but `sendAnswers` and `fresh` -/

@[simp] theorem sendAsked_dout (s : State) : (sendAsked s).dout = s.dout := by
  unfold sendAsked; split <;> rfl
@[simp] theorem sendAsked_rc (s : State) : (sendAsked s).rc = s.rc := by
  unfold sendAsked; split <;> rfl
@[simp] theorem sendAsked_err (s : State) : (sendAsked s).err = s.err := by
  unfold sendAsked; split <;> rfl
@[simp] theorem sendAsked_txst (s : State) : (sendAsked s).txst = s.txst := by
  unfold sendAsked; split <;> rfl
@[simp] theorem sendAsked_txbuf (s : State) : (sendAsked s).txbuf = s.txbuf := by
  unfold sendAsked; split <;> rfl
@[simp] theorem sendAsked_txacc (s : State) : (sendAsked s).txacc = s.txacc := by
  unfold sendAsked; split <;> rfl
@[simp] theorem sendAsked_rxvalid (s : State) : (sendAsked s).rxvalid = s.rxvalid := by
  unfold sendAsked; split <;> rfl
@[simp] theorem sendAsked_rxbuf (s : State) : (sendAsked s).rxbuf = s.rxbuf := by
  unfold sendAsked; split <;> rfl
@[simp] theorem sendAsked_dvalid (s : State) : (sendAsked s).dvalid = s.dvalid := by
  unfold sendAsked; split <;> rfl
@[simp] theorem sendAsked_dbuf (s : State) : (sendAsked s).dbuf = s.dbuf := by
  unfold sendAsked; split <;> rfl
@[simp] theorem sendAsked_trace (s : State) : (sendAsked s).trace = s.trace := by
  unfold sendAsked; split <;> rfl
@[simp] theorem sendAsked_params (s : State) : (sendAsked s).params = s.params := by
  unfold sendAsked; split <;> rfl
@[simp] theorem sendAsked_inputs (s : State) : (sendAsked s).inputs = s.inputs := by
  unfold sendAsked; split <;> rfl
@[simp] theorem sendAsked_recvAnswers (s : State) : (sendAsked s).recvAnswers = s.recvAnswers := by
  unfold sendAsked; split <;> rfl
@[simp] theorem sendAsked_waiting (s : State) : (sendAsked s).waiting = s.waiting := by
  unfold sendAsked; split <;> rfl

end Sys2Proof.Machine
end

