-- ==== Sys2Proof/Laws/Ops.lean ====
section
/-! SUPPORT. For each shared operation one lemma that says everything it can do. -/

namespace Sys2Proof.Machine

/-! ## How a command ends -/

@[simp] theorem endRaise_eq (e : ErrKind) (s : State) : endRaise e s = .next (raise e s) := rfl
@[simp] theorem endOk_eq (v : Word40) (s : State) : endOk v s = .next (ret v s) := rfl
@[simp] theorem endLength_eq (n : Nat) (s : State) : endLength n s = .next (retLength n s) := rfl

/-- A returned length that fits `DOUT` (10_state.md R16). -/
theorem retLength_of_lt {n : Nat} (h : n < 2 ^ 40) (s : State) : retLength n s = ret (BitVec.ofNat 40 n) s := by
  simp only [retLength, if_pos h]

/-- A returned length that does not fit `DOUT` (log entry 9). -/
theorem retLength_of_le {n : Nat} (h : 2 ^ 40 ≤ n) (s : State) :
    retLength n s = { ret (Config.wideLength s.fresh) s with fresh := s.fresh + 1 } := by
  simp only [retLength, if_neg (Nat.not_lt.mpr h)]

/-- A set flag stays set, and the error's own is set (10_state.md R23). -/
theorem getLsbD_setFlag (err : BitVec 8) (e : ErrKind) (k : Nat) :
    (setFlag err e).getLsbD k = (err.getLsbD k || decide (k = e.code.toNat - 1)) := by
  by_cases h : k < 8
  · interval_cases k <;> cases e <;> simp [setFlag, ErrKind.flag, ErrKind.code]
  · have hc : e.code.toNat ≤ 8 := by cases e <;> decide
    have hk : ¬ k = e.code.toNat - 1 := by omega
    rw [BitVec.getLsbD_of_ge _ k (by omega), BitVec.getLsbD_of_ge err k (by omega)]
    simp [hk]

/-! ## Reads and appends -/

/-- The read of one byte: in range its value, else `RangeError` (20_memory.md R33). -/
theorem readIndex_cases (buf : Bytes) (idx : BitVec 32) (s : State) :
    (buf.length ≤ idx.toNat ∧ readIndex buf idx s = .next (raise .rangeError s)) ∨
    ∃ b, memRead buf idx.toNat = some b ∧ readIndex buf idx s = .next (ret (byteValue b) s) := by
  unfold readIndex
  cases h : memRead buf idx.toNat with
  | none => exact .inl ⟨(memRead_eq_none_iff _ _).mp h, rfl⟩
  | some b => exact .inr ⟨b, rfl, rfl⟩

/-- The end of an append command: everything or nothing (41_tx_builder.md R78, R79). -/
theorem appendAndReturn_cases (bs : Bytes) (s : State) :
    (¬ Fits s.params.txcap (s.txbuf.length + bs.length + 2) ∧ appendAndReturn bs s = .next (raise .overflow s)) ∨
    (Fits s.params.txcap (s.txbuf.length + bs.length + 2) ∧
      appendAndReturn bs s = .next (retLength (s.txbuf.length + bs.length)
        { s with txbuf := s.txbuf ++ bs, txacc := accumulate s.txacc bs })) := by
  unfold appendAndReturn txAppend
  by_cases h : withinCapacity s.params.txcap (s.txbuf.length + bs.length + 2) = true
  · refine .inr ⟨(withinCapacity_iff_fits _ _).mp h, ?_⟩
    rw [if_pos h]
    simp [append]
  · refine .inl ⟨fun hf => h ((withinCapacity_iff_fits _ _).mpr hf), ?_⟩
    rw [if_neg h]; rfl

/-! ## The channel -/

/-- What an RXRECV does, by the channel's answer (43_channel.md R90): it waits, or it ends with `IOError`, `Timeout`,
`Overflow` or a message held. -/
theorem receiveAnswer_cases (a : RecvAnswer) (s : State) :
    (receiveAnswer a s = keepWaiting s ∧ (a = .silent ∨ a = .deadline ∧ s.params.rxDeadline = false)) ∨
    (a = .closed ∧ receiveAnswer a s = raise .ioError (record .recvFailed { s with waiting := false })) ∨
    (a = .deadline ∧ s.params.rxDeadline = true ∧
      receiveAnswer a s = raise .timeout (record .recvDeadline { s with waiting := false })) ∨
    ∃ m, a = .message m ∧
      (Fits s.params.rxcap m.length ∧ receiveAnswer a s =
          retLength m.length (holdMessage m (record (.received m) { s with waiting := false })) ∨
        ¬ Fits s.params.rxcap m.length ∧ receiveAnswer a s =
          raise .overflow (emptyReceive (record (.received m) { s with waiting := false }))) := by
  cases a with
  | silent => exact .inl ⟨rfl, .inl rfl⟩
  | closed => exact .inr (.inl ⟨rfl, rfl⟩)
  | deadline =>
    cases h : s.params.rxDeadline with
    | false => exact .inl ⟨by simp [receiveAnswer, h], .inr ⟨rfl, rfl⟩⟩
    | true => exact .inr (.inr (.inl ⟨rfl, rfl, by simp [receiveAnswer, h]⟩))
  | message m =>
    refine .inr (.inr (.inr ⟨m, rfl, ?_⟩))
    by_cases h : withinCapacity s.params.rxcap m.length = true
    · exact .inl ⟨(withinCapacity_iff_fits _ _).mp h, by simp [receiveAnswer, h]⟩
    · exact .inr ⟨fun hf => h ((withinCapacity_iff_fits _ _).mpr hf), by simp [receiveAnswer, h]⟩

/-- What an RXRECV does in every state. -/
theorem execRxrecv_cases (s : State) :
    (s.recvAnswers = [] ∧ execRxrecv s = .next (keepWaiting s)) ∨
    ∃ a rest, s.recvAnswers = a :: rest ∧ execRxrecv s = .next (receiveAnswer a { s with recvAnswers := rest }) := by
  unfold execRxrecv
  cases h : s.recvAnswers with
  | nil => exact .inl ⟨rfl, rfl⟩
  | cons a rest => exact .inr ⟨a, rest, rfl, rfl⟩

/-- What a TXSEND does in every state (43_channel.md R88). -/
theorem execTxsend_cases (s : State) :
    (s.txst ≠ .sealed ∧ execTxsend s = .next (raise .sequenceError s)) ∨
    (s.txst = .sealed ∧ sendReply s = .closed ∧
      execTxsend s = .next (raise .ioError (record .sendFailed (sendAsked s)))) ∨
    (s.txst = .sealed ∧ sendReply s = .ok ∧
      execTxsend s = .next (retLength s.txbuf.length
        { record (.sent s.txbuf) (sendAsked s) with txbuf := [], txacc := 0, txst := .idle })) := by
  unfold execTxsend
  by_cases h : s.txst = .sealed
  · cases hr : sendReply s with
    | ok => exact .inr (.inr ⟨h, rfl, by simp [h]⟩)
    | closed => exact .inr (.inl ⟨h, rfl, by simp [h]⟩)
  · exact .inl ⟨h, by simp [h]⟩

/-! ## The step -/

/-- What a step does in every state: the hardware reset input, a command word, the RXRECV in progress, or nothing. -/
theorem step_cases (s : State) :
    (∃ rest, s.inputs = .resetPin :: rest ∧ step s = .next (hardwareReset { s with inputs := rest })) ∨
    (∃ w rest, s.waiting = false ∧ s.inputs = .command w :: rest ∧ step s = issue w { s with inputs := rest }) ∨
    (s.waiting = true ∧ (∀ rest, s.inputs ≠ .resetPin :: rest) ∧ step s = exec .rxrecv s) ∨
    (s.waiting = false ∧ s.inputs = [] ∧ step s = .next s) := by
  unfold step pending
  cases hi : s.inputs with
  | nil =>
    cases hw : s.waiting with
    | false => exact .inr (.inr (.inr ⟨rfl, rfl, rfl⟩))
    | true => exact .inr (.inr (.inl ⟨rfl, by simp, rfl⟩))
  | cons a rest =>
    cases a with
    | resetPin => exact .inl ⟨rest, rfl, rfl⟩
    | command w =>
      cases hw : s.waiting with
      | false => exact .inr (.inl ⟨w, rest, rfl, rfl, rfl⟩)
      | true => exact .inr (.inr (.inl ⟨rfl, by simp, rfl⟩))

/-- What taking one command word does (30_encoding.md R40, R43). -/
theorem issue_cases (w : CommandWord) (s : State) :
    (∃ i, decode w = .command i ∧ issue w s = exec i s) ∨
    (∃ why, decode w = .illegal why ∧ issue w s = .next (raise .illegalCommand s)) := by
  unfold issue
  cases h : decode w with
  | command i => exact .inl ⟨i, rfl, rfl⟩
  | illegal why => exact .inr ⟨why, rfl, rfl⟩

end Sys2Proof.Machine
end

