-- ==== Sys2Proof/Laws/Exec.lean ====
section
/-! SUPPORT. Everything a command can do, said once (`exec_effect`): a proof about all commands splits its thirteen cases
and never unfolds a meaning. Then, per operand form, how a command word of a known opcode is taken (`issue_form_…`). -/

namespace Sys2Proof.Machine

/-- The ways in which a command reaches its next state. -/
inductive Effect (i : Instr) (s t : State) : Prop where
  /-- A value returned, nothing else written. -/
  | value (v : Word40) (h : t = ret v s)
  /-- An error that neither the decoder nor the channel raises, nothing else written. -/
  | error (e : ErrKind) (h : t = raise e s) (decoded : e ≠ .illegalCommand) (channel : e ≠ .timeout ∧ e ≠ .ioError)
  /-- A length returned, nothing else written (RDLEN). -/
  | length (n : Nat) (h : t = retLength n s)
  | resetDone (hi : i = .reset) (h : t = ret 0 (resetRecord s))
  | flagsCleared (hi : i = .clrerr) (h : t = ret (s.err.setWidth 40) { s with err := 0 })
  | begun (id : Byte) (hi : i = .txbegin id) (hs : sevenBitSafe id = true)
      (h : t = ret 6 { s with txbuf := messageStart s.params id, txacc := 0, txst := .opened })
  /-- Bytes appended: all 7-bit-safe, and two more would fit (R78, R79). -/
  | appended (bs : Bytes) (hi : isAppend i = true) (hp : s.txst = .opened) (hb : ∀ b ∈ bs, b.toNat ≤ 127)
      (hf : Fits s.params.txcap (s.txbuf.length + bs.length + 2))
      (h : t = retLength (s.txbuf.length + bs.length)
        { s with txbuf := s.txbuf ++ bs, txacc := accumulate s.txacc bs })
  | sealed (hi : i = .txend) (hp : s.txst = .opened) (hl : 7 ≤ s.txbuf.length)
      (h : t = retLength (s.txbuf.length + 2)
        { s with
          txbuf := s.txbuf ++ [checksumOfSum s.txacc.toNat, Config.eox]
          txacc := accumulate s.txacc [checksumOfSum s.txacc.toNat]
          txst := .sealed })
  | sendFailed (hi : i = .txsend) (hp : s.txst = .sealed)
      (h : t = raise .ioError (record .sendFailed (sendAsked s)))
  | sent (hi : i = .txsend) (hp : s.txst = .sealed)
      (h : t = retLength s.txbuf.length
        { record (.sent s.txbuf) (sendAsked s) with txbuf := [], txacc := 0, txst := .idle })
  | waits (hi : i = .rxrecv) (h : t = keepWaiting s)
  /-- The channel's next answer taken; `receiveAnswer_cases` says what it does. -/
  | answered (hi : i = .rxrecv) (a : RecvAnswer) (rest : List RecvAnswer) (ha : s.recvAnswers = a :: rest)
      (h : t = receiveAnswer a { s with recvAnswers := rest })
  | decoded (hi : i = .rxdecode) (bs : Bytes) (hv : s.rxvalid = true) (h11 : 11 ≤ s.rxbuf.length)
      (even : (payload s.rxbuf).length % 2 ≠ 1) (hd : nibbleDecodeAll (payload s.rxbuf) = some bs)
      (hf : Fits s.params.dcap bs.length)
      (h : t = retLength bs.length { s with dbuf := bs, dvalid := true })

theorem packDigit_le (v : BitVec 32) (n : Nat) (mask : Byte) (h : mask.toNat ≤ 127) :
    (packDigit v n mask).toNat ≤ 127 := by
  simp only [packDigit, BitVec.toNat_and]
  exact le_trans Nat.and_le_right h

theorem appendAndReturn_effect (i : Instr) (bs : Bytes) (s t : State) (hi : isAppend i = true)
    (hp : s.txst = .opened) (hb : ∀ b ∈ bs, b.toNat ≤ 127)
    (h : appendAndReturn bs s = .next t) : Effect i s t := by
  rcases appendAndReturn_cases bs s with ⟨_, h'⟩ | ⟨hf, h'⟩ <;> rw [h'] at h <;> injection h with h
  · exact .error _ h.symm (by simp) (by simp)
  · exact .appended bs hi hp hb hf h.symm

theorem readIndex_effect (i : Instr) (buf : Bytes) (idx : BitVec 32) (s t : State)
    (h : readIndex buf idx s = .next t) : Effect i s t := by
  rcases readIndex_cases buf idx s with ⟨_, h'⟩ | ⟨b, _, h'⟩ <;> rw [h'] at h <;> injection h with h
  · exact .error _ h.symm (by simp) (by simp)
  · exact .value _ h.symm

/-- Inversion of `exec`. -/
theorem exec_effect (i : Instr) (s t : State) (h : exec i s = .next t) : Effect i s t := by
  cases i <;> simp only [exec] at h
  case reset => injection h with h; exact .resetDone rfl h.symm
  case clrerr => injection h with h; exact .flagsCleared rfl h.symm
  case rdstat => injection h with h; exact .value _ h.symm
  case rdlen => unfold execRdlen at h; split at h <;> injection h with h
                · exact .length _ h.symm
                · exact .length _ h.symm
                · exact .length _ h.symm
                · exact .error _ h.symm (by simp) (by simp)
  case nibenc => injection h with h; exact .value _ h.symm
  case nibdec => unfold execNibdec at h; split at h <;> injection h with h
                 · exact .error _ h.symm (by simp) (by simp)
                 · exact .value _ h.symm
  case pack => injection h with h; exact .value _ h.symm
  case unpack => unfold execUnpack at h; split at h <;> injection h with h
                 · exact .error _ h.symm (by simp) (by simp)
                 · exact .value _ h.symm
  case txbegin id => unfold execTxbegin at h; split at h <;> injection h with h
                     · rename_i hs; exact .begun id rfl hs h.symm
                     · exact .error _ h.symm (by simp) (by simp)
  case txbyte b =>
    unfold execTxbyte at h; split at h
    · injection h with h; exact .error _ h.symm (by simp) (by simp)
    · rename_i hp; simp only [ne_eq, not_not] at hp; split at h
      · rename_i hb; exact appendAndReturn_effect _ _ _ _ rfl hp (by simpa [sevenBitSafe] using hb) h
      · injection h with h; exact .error _ h.symm (by simp) (by simp)
  case txpath b =>
    unfold execTxpath at h; split at h
    · injection h with h; exact .error _ h.symm (by simp) (by simp)
    · rename_i hp; simp only [ne_eq, not_not] at hp; split at h
      · rename_i hb; exact appendAndReturn_effect _ _ _ _ rfl hp (by simp [pathChar] at hb; simp [hb]) h
      · injection h with h; exact .error _ h.symm (by simp) (by simp)
  case txint v =>
    unfold execTxint at h; split at h
    · injection h with h; exact .error _ h.symm (by simp) (by simp)
    · rename_i hp; simp only [ne_eq, not_not] at hp
      refine appendAndReturn_effect _ _ _ _ rfl hp ?_ h
      intro b hb; simp only [packInteger, List.mem_cons, List.not_mem_nil, or_false] at hb
      rcases hb with rfl | rfl | rfl | rfl | rfl <;> exact packDigit_le _ _ _ (by decide)
  case txnib b =>
    unfold execTxnib at h; split at h
    · injection h with h; exact .error _ h.symm (by simp) (by simp)
    · rename_i hp; simp only [ne_eq, not_not] at hp
      refine appendAndReturn_effect _ _ _ _ rfl hp ?_ h
      intro c hc; simp only [nibbleEncode, List.mem_cons, List.not_mem_nil, or_false] at hc
      have := nibbles_le b
      rcases hc with rfl | rfl <;> omega
  case txck => unfold execTxck at h; split at h <;> injection h with h
               · exact .error _ h.symm (by simp) (by simp)
               · exact .value _ h.symm
  case txend =>
    unfold execTxend at h; split at h
    · injection h with h; exact .error _ h.symm (by simp) (by simp)
    · rename_i hp; simp only [ne_eq, not_not] at hp; split at h
      · injection h with h; exact .error _ h.symm (by simp) (by simp)
      · rename_i hl; injection h with h; exact .sealed rfl hp (by omega) (by rw [← h]; simp [append])
  case txsend =>
    rcases execTxsend_cases s with ⟨_, h'⟩ | ⟨hp, _, h'⟩ | ⟨hp, _, h'⟩ <;> rw [h'] at h <;> injection h with h
    · exact .error _ h.symm (by simp) (by simp)
    · exact .sendFailed rfl hp h.symm
    · exact .sent rfl hp h.symm
  case rdtx => exact readIndex_effect _ _ _ _ _ h
  case rxrecv =>
    rcases execRxrecv_cases s with ⟨_, h'⟩ | ⟨a, r, ha, h'⟩ <;> rw [h'] at h <;> injection h with h
    · exact .waits rfl h.symm
    · exact .answered rfl a r ha h.symm
  case rxvalhdr => unfold execRxvalhdr at h; repeat' split at h
                   all_goals injection h with h
                   all_goals first | exact .error _ h.symm (by simp) (by simp) | exact .value _ h.symm
  case rxack => unfold execRxack at h; repeat' split at h
                all_goals injection h with h
                all_goals first | exact .error _ h.symm (by simp) (by simp) | exact .value _ h.symm
  case rxchk => unfold execRxchk at h; repeat' split at h
                all_goals injection h with h
                all_goals first | exact .error _ h.symm (by simp) (by simp) | exact .value _ h.symm
  case rxdecode =>
    unfold execRxdecode at h; split at h
    · injection h with h; exact .error _ h.symm (by simp) (by simp)
    · rename_i hv; simp only [Bool.not_eq_true', Bool.not_eq_false] at hv; split at h
      · injection h with h; exact .error _ h.symm (by simp) (by simp)
      · rename_i hl; split at h
        · injection h with h; exact .error _ h.symm (by simp) (by simp)
        · rename_i hev; split at h
          · injection h with h; exact .error _ h.symm (by simp) (by simp)
          · rename_i bs hb; split at h <;> injection h with h
            · rename_i hf; exact .decoded rfl bs hv (by omega) hev hb ((withinCapacity_iff_fits _ _).mp hf) h.symm
            · exact .error _ h.symm (by simp) (by simp)
  case rdrx => unfold execRdrx at h; split at h
               · injection h with h; exact .error _ h.symm (by simp) (by simp)
               · exact readIndex_effect _ _ _ _ _ h
  case rdd => unfold execRdd at h; split at h
              · injection h with h; exact .error _ h.symm (by simp) (by simp)
              · exact readIndex_effect _ _ _ _ _ h

/-! ## Taking a word of a known opcode -/

/-- A word whose opcode has a command: that command if the bits its form does not use are 0, else `IllegalCommand`. -/
theorem issue_of_commandOf (w : CommandWord) (s : State) (opc : BitVec 8) (f : Form) (i : Instr)
    (ho : w.extractLsb' 40 8 = opc) (hc : commandOf opc (argField w) = some (f, i)) :
    issue w s = if f.unusedZero (argField w) = true then exec i s else .next (raise .illegalCommand s) := by
  unfold issue decode decodeFields
  have : opcField w = opc := ho
  rw [this, hc]
  by_cases hz : f.unusedZero (argField w) = true <;> simp [hz]

theorem issue_form_n (w : CommandWord) (s : State) (opc : BitVec 8) (i : Instr) (ho : w.extractLsb' 40 8 = opc)
    (hc : commandOf opc (argField w) = some (.n, i)) :
    issue w s = if w.extractLsb' 0 40 = 0 then exec i s else .next (raise .illegalCommand s) := by
  rw [issue_of_commandOf w s opc .n i ho hc]
  simp [Form.unusedZero, argField]

theorem issue_form_b (w : CommandWord) (s : State) (opc : BitVec 8) (i : Instr) (ho : w.extractLsb' 40 8 = opc)
    (hc : commandOf opc (argField w) = some (.b, i)) :
    issue w s = if w.extractLsb' 8 32 = 0 then exec i s else .next (raise .illegalCommand s) := by
  rw [issue_of_commandOf w s opc .b i ho hc]
  simp only [Form.unusedZero, beq_iff_eq, argField_extract w 8 32 (by omega)]
  rfl

theorem issue_form_hl (w : CommandWord) (s : State) (opc : BitVec 8) (i : Instr) (ho : w.extractLsb' 40 8 = opc)
    (hc : commandOf opc (argField w) = some (.hl, i)) :
    issue w s = if w.extractLsb' 16 24 = 0 then exec i s else .next (raise .illegalCommand s) := by
  rw [issue_of_commandOf w s opc .hl i ho hc]
  simp only [Form.unusedZero, beq_iff_eq, argField_extract w 16 24 (by omega)]
  rfl

theorem issue_form_t (w : CommandWord) (s : State) (opc : BitVec 8) (i : Instr) (ho : w.extractLsb' 40 8 = opc)
    (hc : commandOf opc (argField w) = some (.t, i)) :
    issue w s = if w.extractLsb' 24 16 = 0 then exec i s else .next (raise .illegalCommand s) := by
  rw [issue_of_commandOf w s opc .t i ho hc]
  simp only [Form.unusedZero, beq_iff_eq, argField_extract w 24 16 (by omega)]
  rfl

theorem issue_form_v (w : CommandWord) (s : State) (opc : BitVec 8) (i : Instr) (ho : w.extractLsb' 40 8 = opc)
    (hc : commandOf opc (argField w) = some (.v, i)) :
    issue w s = if w.extractLsb' 32 8 = 0 then exec i s else .next (raise .illegalCommand s) := by
  rw [issue_of_commandOf w s opc .v i ho hc]
  simp only [Form.unusedZero, beq_iff_eq, argField_extract w 32 8 (by omega)]
  rfl

theorem lane_of_word (w : CommandWord) (k : Nat) (h : 8 * k + 8 ≤ 40) :
    lane k (argField w) = w.extractLsb' (8 * k) 8 := argField_extract w _ _ h

theorem valueField_of_word (w : CommandWord) : valueField (argField w) = w.extractLsb' 0 32 :=
  argField_extract w _ _ (by omega)

/-- A byte in the low lane of `DOUT` (10_state.md R16). -/
theorem setWidth_byte (b : Byte) : b.setWidth 40 = 0#32 ++ b := by
  apply BitVec.eq_of_toNat_eq
  rw [toNat_append]
  have := b.isLt
  simp
  omega

end Sys2Proof.Machine
end

