-- ==== Sys2Proof/Laws/HostSequences.lean ====
section
/-! SUPPORT. The parameters of the machine of `State.reset`, and how the host waits for a command (45_host_sequences.md R97,
R101; 70_reset_and_hazards.md R144): one lemma per case of the wait, and what holds when it is over. -/

namespace Sys2Proof

/-- The parameters of `State.reset` meet the bounds of 00_scope.md R6 and P3, P5, P6, whatever the open values are. -/
theorem Config.params_ok : Config.params.Ok where
  distinct := by
    have h : ([0, 1, 2, 3] : List (BitVec 7)).Nodup := by decide
    exact h.map Config.markers.injective
  offset := Nat.le_add_right 7 _
  txcap := by intro c h; cases h

namespace Machine

@[simp] theorem onNext_next (t : State) (f : State → Host.Outcome State Fault Refusal) : onNext (.next t) f = f t := rfl

/-- A block that is not waiting is not waited for. -/
@[simp] theorem awaitAnswer_of_not_waiting (n : Nat) (s : State) (h : s.waiting = false) :
    awaitAnswer n s = .next s := by
  cases n with
  | zero => rfl
  | succ n => simp [awaitAnswer, h]

/-- A command that leaves no wait is over at once. -/
theorem runCommand_of_not_waiting {i : Instr} {s t : State} (h : exec i s = .next t) (hw : t.waiting = false) :
    runCommand i s = .next t := by
  rw [runCommand, h, onNext_next, awaitAnswer_of_not_waiting _ _ hw]

/-- A silence of the channel is waited through. -/
theorem awaitAnswer_silent (n : Nat) (s : State) (rest : List RecvAnswer) (hw : s.waiting = true)
    (h : s.recvAnswers = .silent :: rest) :
    awaitAnswer (n + 1) s = awaitAnswer n { s with recvAnswers := rest } := by
  have e : exec .rxrecv s = .next { s with recvAnswers := rest } := by
    show execRxrecv s = _
    simp only [execRxrecv, h, receiveAnswer, keepWaiting, ← hw]
  rw [awaitAnswer, if_pos hw, e, onNext_next]

/-- The answer that ends a receive ends it alike whether the block waited for it or not. -/
theorem receiveAnswer_after_wait (a : RecvAnswer) (s : State) (h : (receiveAnswer a s).waiting = false) :
    receiveAnswer a { s with waiting := true } = receiveAnswer a s := by
  cases a with
  | message m => rfl
  | closed => rfl
  | silent => cases h
  | deadline =>
    simp only [receiveAnswer] at h ⊢
    split
    · rfl
    · next hd => rw [if_neg hd] at h; cases h

/-- While the block waits, the host waits through any number of silences up to the answer after them. -/
theorem awaitAnswer_silences (k n : Nat) (a : RecvAnswer) (rest : List RecvAnswer) (s : State) (hn : k < n)
    (hs : s.waiting = true) (h : s.recvAnswers = List.replicate k .silent ++ a :: rest)
    (hw : (receiveAnswer a { s with recvAnswers := rest }).waiting = false) :
    awaitAnswer n s = .next (receiveAnswer a { s with recvAnswers := rest }) := by
  induction k generalizing n s with
  | zero =>
    obtain ⟨m, rfl⟩ : ∃ m, n = m + 1 := ⟨n - 1, by omega⟩
    have e : exec .rxrecv s = .next (receiveAnswer a { s with recvAnswers := rest }) := by
      show execRxrecv s = _
      rw [execRxrecv, h]; rfl
    rw [awaitAnswer, if_pos hs, e, onNext_next, awaitAnswer_of_not_waiting _ _ hw]
  | succ k ih =>
    obtain ⟨m, rfl⟩ : ∃ m, n = m + 1 := ⟨n - 1, by omega⟩
    rw [awaitAnswer_silent m s (List.replicate k .silent ++ a :: rest) hs (by rw [h]; rfl)]
    exact ih m { s with recvAnswers := List.replicate k .silent ++ a :: rest } (by omega) hs rfl hw

/-- A receive waits through any number of silences and ends as if the answer after them had come at once. -/
theorem runCommand_rxrecv_silences (k : Nat) (a : RecvAnswer) (rest : List RecvAnswer) (s : State)
    (h : s.recvAnswers = List.replicate k .silent ++ a :: rest)
    (hw : (receiveAnswer a { s with recvAnswers := rest }).waiting = false) :
    runCommand .rxrecv s = .next (receiveAnswer a { s with recvAnswers := rest }) := by
  cases k with
  | zero => exact runCommand_of_not_waiting (by show execRxrecv s = _; rw [execRxrecv, h]; rfl) hw
  | succ k =>
    have e : exec .rxrecv s = .next (keepWaiting { s with recvAnswers := List.replicate k .silent ++ a :: rest }) := by
      show execRxrecv s = _
      rw [execRxrecv, h]; rfl
    have he := receiveAnswer_after_wait a { s with recvAnswers := rest } hw
    rw [runCommand, e, onNext_next, ← he]
    exact awaitAnswer_silences k _ a rest (keepWaiting { s with recvAnswers := List.replicate k .silent ++ a :: rest })
      (by simp [keepWaiting]) rfl rfl (by show (receiveAnswer a { s with recvAnswers := rest, waiting := true }).waiting = _; rw [he, hw])

/-- When the host has waited through every listed answer, the command is over or the channel lists no more answers. -/
theorem awaitAnswer_exhausts (n : Nat) (s t : State) (hn : s.recvAnswers.length ≤ n) (h : awaitAnswer n s = .next t) :
    t.waiting = false ∨ t.recvAnswers = [] := by
  induction n generalizing s with
  | zero =>
    cases h
    exact .inr (List.eq_nil_of_length_eq_zero (by omega))
  | succ n ih =>
    rw [awaitAnswer] at h
    split at h
    · next hw =>
      have e : ∃ u, exec .rxrecv s = .next u ∧ u.recvAnswers.length ≤ n := by
        show ∃ u, execRxrecv s = .next u ∧ _
        cases hr : s.recvAnswers with
        | nil => exact ⟨keepWaiting s, by rw [execRxrecv, hr], by simp [keepWaiting, hr]⟩
        | cons a rest =>
          refine ⟨receiveAnswer a { s with recvAnswers := rest }, by rw [execRxrecv, hr], ?_⟩
          rw [hr] at hn
          have : (receiveAnswer a { s with recvAnswers := rest }).recvAnswers = rest := by
            cases a with
            | message m =>
              simp only [receiveAnswer]
              split <;> simp [record, holdMessage, emptyReceive]
            | closed => rfl
            | deadline => simp only [receiveAnswer]; split <;> rfl
            | silent => rfl
          rw [this]
          simpa using hn
      obtain ⟨u, hu, hl⟩ := e
      rw [hu, onNext_next] at h
      exact ih u hl h
    · next hw =>
      cases h
      exact .inl (by simpa using hw)

end Machine

end Sys2Proof
end

