-- ==== Sys2Proof/Laws/PerInstr.lean ====
section
/-! SUPPORT. Statements for all commands, made per command (LAWS.json). `EncodeLegal`: the encoder sets no bit of `arg` that
the command's form does not use, so that its word is legal (30_encoding.md R41, R43). -/

namespace Sys2Proof.Laws

/-- The argument bits above the operands of the command are 0. -/
def EncodeLegal.Statement (i : Instr) : Prop := i.form.unusedZero i.argument = true

theorem EncodeLegal.reset : EncodeLegal.Statement .reset := unusedZero_n
theorem EncodeLegal.clrerr : EncodeLegal.Statement .clrerr := unusedZero_n
theorem EncodeLegal.rdstat : EncodeLegal.Statement .rdstat := unusedZero_n
theorem EncodeLegal.rdlen (sel : Byte) : EncodeLegal.Statement (.rdlen sel) := unusedZero_argB sel
theorem EncodeLegal.nibenc (b : Byte) : EncodeLegal.Statement (.nibenc b) := unusedZero_argB b
theorem EncodeLegal.nibdec (hi lo : Byte) : EncodeLegal.Statement (.nibdec hi lo) := unusedZero_argHL hi lo
theorem EncodeLegal.pack (v : BitVec 32) : EncodeLegal.Statement (.pack v) := unusedZero_argV v
theorem EncodeLegal.unpack (d4 d3 d2 d1 d0 : Byte) : EncodeLegal.Statement (.unpack d4 d3 d2 d1 d0) := rfl
theorem EncodeLegal.txbegin (id : Byte) : EncodeLegal.Statement (.txbegin id) := unusedZero_argB id
theorem EncodeLegal.txbyte (b : Byte) : EncodeLegal.Statement (.txbyte b) := unusedZero_argB b
theorem EncodeLegal.txpath (c : Byte) : EncodeLegal.Statement (.txpath c) := unusedZero_argB c
theorem EncodeLegal.txint (v : BitVec 32) : EncodeLegal.Statement (.txint v) := unusedZero_argV v
theorem EncodeLegal.txnib (b : Byte) : EncodeLegal.Statement (.txnib b) := unusedZero_argB b
theorem EncodeLegal.txck : EncodeLegal.Statement .txck := unusedZero_n
theorem EncodeLegal.txend : EncodeLegal.Statement .txend := unusedZero_n
theorem EncodeLegal.txsend : EncodeLegal.Statement .txsend := unusedZero_n
theorem EncodeLegal.rdtx (idx : BitVec 32) : EncodeLegal.Statement (.rdtx idx) := unusedZero_argV idx
theorem EncodeLegal.rxrecv : EncodeLegal.Statement .rxrecv := unusedZero_n
theorem EncodeLegal.rxvalhdr (id cat op : Byte) : EncodeLegal.Statement (.rxvalhdr id cat op) := unusedZero_argT id cat op
theorem EncodeLegal.rxack (id cat op : Byte) : EncodeLegal.Statement (.rxack id cat op) := unusedZero_argT id cat op
theorem EncodeLegal.rxchk : EncodeLegal.Statement .rxchk := unusedZero_n
theorem EncodeLegal.rxdecode : EncodeLegal.Statement .rxdecode := unusedZero_n
theorem EncodeLegal.rdrx (idx : BitVec 32) : EncodeLegal.Statement (.rdrx idx) := unusedZero_argV idx
theorem EncodeLegal.rdd (idx : BitVec 32) : EncodeLegal.Statement (.rdd idx) := unusedZero_argV idx

end Sys2Proof.Laws
end

