-- ==== Sys2Proof/Tests/Slice0.lean ====
section
/-! SUPPORT. Tests. Every expected result is written out in the spec: the words in the encoding lines of the rules and in
95_test_vectors.md, the results in its vectors (named at each test). The last part shows, for every statement with
hypotheses, values that meet them (`witness_<statement>`), clause by clause, at the boundaries. -/

namespace Sys2Proof.Tests

open Sys2Proof Sys2Proof.Machine

/-! ## Decoding: a word of every command, written out from the spec -/

/-- R92. -/
theorem decodes_reset : decode 0x010000000000#48 = .command .reset := by decide
/-- R93. -/
theorem decodes_clrerr : decode 0x020000000000#48 = .command .clrerr := by decide
/-- R94. -/
theorem decodes_rdstat : decode 0x030000000000#48 = .command .rdstat := by decide
/-- R95. -/
theorem decodes_rdlen : decode 0x040000000002#48 = .command (.rdlen 2) := by decide
/-- section 2.2. -/
theorem decodes_nibenc : decode 0x10000000004B#48 = .command (.nibenc 0x4B) := by decide
/-- section 2.2. -/
theorem decodes_nibdec : decode 0x11000000040B#48 = .command (.nibdec 4 11) := by decide
/-- section 2.3. -/
theorem decodes_pack : decode 0x120012345678#48 = .command (.pack 0x12345678) := by decide
/-- section 2.3. -/
theorem decodes_unpack : decode 0x130111512C78#48 = .command (.unpack 0x01 0x11 0x51 0x2C 0x78) := by decide
/-- T1. -/
theorem decodes_txbegin : decode 0x20000000007F#48 = .command (.txbegin 0x7F) := by decide
/-- T3. -/
theorem decodes_txbyte : decode 0x21000000007A#48 = .command (.txbyte 0x7A) := by decide
/-- P2. -/
theorem decodes_txpath : decode 0x22000000002F#48 = .command (.txpath 0x2F) := by decide
/-- T2. -/
theorem decodes_txint : decode 0x2300FFFFFFFF#48 = .command (.txint 0xFFFFFFFF) := by decide
/-- R74. -/
theorem decodes_txnib : decode 0x2400000000DE#48 = .command (.txnib 0xDE) := by decide
/-- R75. -/
theorem decodes_txck : decode 0x250000000000#48 = .command .txck := by decide
/-- R76. -/
theorem decodes_txend : decode 0x260000000000#48 = .command .txend := by decide
/-- R88. -/
theorem decodes_txsend : decode 0x270000000000#48 = .command .txsend := by decide
/-- R77. -/
theorem decodes_rdtx : decode 0x280000000008#48 = .command (.rdtx 8) := by decide
/-- R90. -/
theorem decodes_rxrecv : decode 0x300000000000#48 = .command .rxrecv := by decide
/-- R80. -/
theorem decodes_rxvalhdr : decode 0x310000057A02#48 = .command (.rxvalhdr 5 0x7A 2) := by decide
/-- R81. -/
theorem decodes_rxack : decode 0x320000017A04#48 = .command (.rxack 1 0x7A 4) := by decide
/-- R82. -/
theorem decodes_rxchk : decode 0x330000000000#48 = .command .rxchk := by decide
/-- R83. -/
theorem decodes_rxdecode : decode 0x340000000000#48 = .command .rxdecode := by decide
/-- R84. -/
theorem decodes_rdrx : decode 0x35000000000F#48 = .command (.rdrx 15) := by decide
/-- P2. -/
theorem decodes_rdd : decode 0x360000000001#48 = .command (.rdd 1) := by decide

/-! ## Refused words (95_test_vectors.md section 2.8): by name, one per form, and unassigned opcodes -/

theorem refuses_opcode_00 : decode 0x000000000000#48 = .illegal (.unknownOpcode 0x00) := by decide
theorem refuses_opcode_05 : decode 0x050000000000#48 = .illegal (.unknownOpcode 0x05) := by decide
theorem refuses_opcode_29 : decode 0x290000000000#48 = .illegal (.unknownOpcode 0x29) := by decide
theorem refuses_opcode_37 : decode 0x370000000000#48 = .illegal (.unknownOpcode 0x37) := by decide
theorem refuses_opcode_FF : decode 0xFF0000000000#48 = .illegal (.unknownOpcode 0xFF) := by decide
theorem refuses_form_n : decode 0x010000000001#48 = .illegal (.unusedBitsSet 0x01) := by decide
theorem refuses_form_b : decode 0x100000000100#48 = .illegal (.unusedBitsSet 0x10) := by decide
theorem refuses_form_hl : decode 0x110000010A05#48 = .illegal (.unusedBitsSet 0x11) := by decide
theorem refuses_form_t : decode 0x310100000000#48 = .illegal (.unusedBitsSet 0x31) := by decide
theorem refuses_form_v : decode 0x120100000000#48 = .illegal (.unusedBitsSet 0x12) := by decide
/-- Form D has no unused bit: this word is legal, its operands are out of range. -/
theorem decodes_form_d_all_ones :
    decode 0x13FFFFFFFFFF#48 = .command (.unpack 0xFF 0xFF 0xFF 0xFF 0xFF) := by decide
theorem decodeTableWord_masks_upper_bits : decodeTableWord 48 0x120000000005 = some (.pack 5) := by decide
theorem decodeTableWord_refuses : decodeTableWord 48 0x120100000000 = none := by decide

/-- No two rows of the opcode table share a word: two rows disagree in a bit that both fix. -/
theorem opcodeTable_rows_disjoint :
    opcodeTable.Pairwise (fun a b => a.mask &&& b.mask &&& (a.pattern ^^^ b.pattern) ≠ 0) := by decide

/-! ## WellFormed: an ill-formed term for each check, and the boundary that passes -/

theorem form_b_refuses_high_bit : Form.b.unusedZero 0x8000000000#40 = false := by decide
theorem domain_rdlen : (Instr.rdlen 3).inDomain = false ∧ (Instr.rdlen 2).inDomain = true := by decide
theorem domain_nibdec_hi : (Instr.nibdec 16 0).inDomain = false := by decide
theorem domain_nibdec_lo : (Instr.nibdec 0 16).inDomain = false ∧ (Instr.nibdec 15 15).inDomain = true := by decide
theorem domain_unpack_d4 : (Instr.unpack 0x10 0 0 0 0).inDomain = false := by decide
theorem domain_unpack_d3 : (Instr.unpack 0 0x80 0 0 0).inDomain = false := by decide
theorem domain_unpack_d2 : (Instr.unpack 0 0 0x80 0 0).inDomain = false := by decide
theorem domain_unpack_d1 : (Instr.unpack 0 0 0 0x80 0).inDomain = false := by decide
theorem domain_unpack_d0 : (Instr.unpack 0 0 0 0 0x80).inDomain = false ∧
    (Instr.unpack 0x0F 0x7F 0x7F 0x7F 0x7F).inDomain = true := by decide
theorem domain_txbegin : (Instr.txbegin 0x80).inDomain = false ∧ (Instr.txbegin 0x7F).inDomain = true := by decide
theorem domain_txbyte : (Instr.txbyte 0xF7).inDomain = false ∧ (Instr.txbyte 0).inDomain = true := by decide
theorem domain_txpath_null : (Instr.txpath 0).inDomain = false := by decide
theorem domain_txpath_high : (Instr.txpath 0x80).inDomain = false ∧ (Instr.txpath 0x7F).inDomain = true := by decide
theorem domain_rxvalhdr : (Instr.rxvalhdr 5 0x80 2).inDomain = false ∧
    (Instr.rxvalhdr 0x80 0x7A 2).inDomain = false := by decide
theorem domain_rxack : (Instr.rxack 1 0x7A 0x84).inDomain = false ∧
    (Instr.rxack 0x7F 0x7F 0x7F).inDomain = true := by decide

/-! ## One step per test -/

/-- A concrete instance: the sample values of 93_implementation_defined.md G1 and G2, with capacities and a deadline as
asked. No statement rests on it. -/
def sampleParams (txcap rxcap dcap : Option Nat) (rxDeadline : Bool) : Params where
  vendor0 := 0x00
  vendor1 := 0x21
  vendor2 := 0x27
  vendor3 := 0x6D
  catFile := 0x7A
  catGetcfg := 1
  catNewcfg := 2
  catLoadcfg := 3
  opbGetcfg := []
  opbNewcfg := []
  opbLoadcfg := []
  getcfgOffset := 7
  txcap := txcap
  rxcap := rxcap
  dcap := dcap
  rxDeadline := rxDeadline

/-- The state after reset of the unbounded instance. -/
def atRest : State := { State.reset with params := sampleParams none none none false }

/-- A message open with the bytes of a body after the instance id 0. -/
def building (txcap : Option Nat) (body : Bytes) : State :=
  { atRest with
    params := sampleParams txcap none none false
    txst := .opened
    txbuf := messageStart (sampleParams txcap none none false) 0 ++ body
    txacc := accumulate 0 body }

/-- The Rescan message of vector M1, sealed, and the channel's next answer to `send`. -/
def sealedRescan (answers : List SendAnswer) : State :=
  { atRest with
    txst := .sealed, sendAnswers := answers
    txbuf := [0xF0, 0x00, 0x21, 0x27, 0x6D, 0x00, 0x7A, 0x08, 0x7E, 0xF7] }

/-- A message held. -/
def holding (m : Bytes) : State := { atRest with rxvalid := true, rxbuf := m }

/-- The Download response of vector V1: the file DE AD 01. -/
def downloadV1 : Bytes :=
  [0xF0, 0x00, 0x21, 0x27, 0x6D, 0x05, 0x7A, 0x00, 0x02, 0x0D, 0x0E, 0x0A, 0x0D, 0x00, 0x01, 0x51, 0xF7]

/-- The acknowledgment of vector V15. -/
def ackV15 : Bytes := [0xF0, 0x00, 0x21, 0x27, 0x6D, 0x01, 0x7A, 0x00, 0x04, 0xF7]

/-- The state after one step in which the host presents a word. -/
def after (w : CommandWord) (s : State) : Option State :=
  match step { s with inputs := [.command w] } with
  | .next t => some t
  | .fault _ => none
  | .refused _ => none

/-- `RC` and `DOUT` after that step. -/
def result (w : CommandWord) (s : State) : Option (Nat × Nat) := (after w s).map fun t => (t.rc.toNat, t.dout.toNat)

/-- Phase, `TXBUF` and `TXACC` after that step. -/
def builder (w : CommandWord) (s : State) : Option (Phase × Bytes × Nat) :=
  (after w s).map fun t => (t.txst, t.txbuf, t.txacc.toNat)

/-- 2.7 row 18. -/
theorem test_reset_empties_the_builder :
    builder 0x010000000000#48 (building none [0x7A]) = some (.idle, [], 0) := by decide
/-- 2.7 row 18. -/
theorem test_reset_keeps_trace :
    ((after 0x010000000000#48 { atRest with trace := [.received [1]] }).map fun t => t.trace) = some [.received [1]] := by
  decide
/-- 2.7 row 6. -/
theorem test_clrerr_returns_the_flags :
    result 0x020000000000#48 { atRest with err := 0x20 } = some (0, 0x20) := by decide
/-- 2.7 row 6. -/
theorem test_clrerr_clears :
    ((after 0x020000000000#48 { atRest with err := 0x20 }).map fun t => t.err) = some 0 := by decide
/-- P2 row 18. -/
theorem test_rdstat :
    result 0x030000000000#48 { holding downloadV1 with dvalid := true, err := 0x20 } = some (0, 0x200C) := by decide
/-- P5 row 22. -/
theorem test_rdstat_phase :
    result 0x030000000000#48 { sealedRescan [] with err := 0x32 } = some (0, 0x3202) := by decide
/-- R95. -/
theorem test_rdlen_rx :
    result 0x040000000001#48 (holding ackV15) = some (0, 0x0A) := by decide
/-- 2.7 row 5. -/
theorem test_rdlen_out_of_range :
    result 0x040000000003#48 atRest = some (6, 0) := by decide
/-- 2.2. -/
theorem test_nibenc :
    result 0x1000000000A5#48 atRest = some (0, 0x0A05) := by decide
/-- 2.2. -/
theorem test_nibdec :
    result 0x11000000040B#48 atRest = some (0, 0x4B) := by decide
/-- 2.2. -/
theorem test_nibdec_out_of_range :
    result 0x110000001000#48 atRest = some (6, 0) := by decide
/-- 2.3. -/
theorem test_pack :
    result 0x120012345678#48 atRest = some (0, 0x0111512C78) := by decide
/-- 2.3, S4. -/
theorem test_pack_masked_top_digit :
    result 0x120010000000#48 atRest = some (0, 0x0100000000) := by decide
/-- 2.3. -/
theorem test_unpack :
    result 0x130F7F7F7F7F#48 atRest = some (0, 0xFFFFFFFF) := by decide
/-- 2.3. -/
theorem test_unpack_out_of_range :
    result 0x131000000000#48 atRest = some (6, 0) := by decide
/-- T1 row 9. -/
theorem test_txbegin :
    builder 0x20000000007F#48 atRest = some (.opened, [0xF0, 0x00, 0x21, 0x27, 0x6D, 0x7F], 0) := by decide
/-- T1 row 8. -/
theorem test_txbegin_out_of_range :
    result 0x200000000080#48 atRest = some (6, 0) := by decide
/-- T3 row 2. -/
theorem test_txbyte :
    builder 0x21000000007A#48 (building none []) = some (.opened, [0xF0, 0x00, 0x21, 0x27, 0x6D, 0x00, 0x7A], 0x7A) := by
  decide
/-- T2 row 4. -/
theorem test_txbyte_wraps_the_sum :
    ((after 0x210000000040#48 (building none [0x00, 0x40])).map fun t => t.txacc.toNat) = some 0 := by decide
/-- T1 row 16. -/
theorem test_txpath_null :
    result 0x220000000000#48 (building none []) = some (2, 0) := by decide
/-- T3 row 6. -/
theorem test_txpath_overflow :
    result 0x220000000041#48 (building (some 12) [0x7A, 0x02, 0x0A, 0x0B]) = some (8, 0) := by decide
/-- T2 row 6. -/
theorem test_txint :
    ((after 0x2300FFFFFFFF#48 (building none [0x00, 0x40, 0x40])).map fun t => (t.txbuf.drop 9, t.txacc.toNat)) =
    some ([0x0F, 0x7F, 0x7F, 0x7F, 0x7F], 0x0B) := by decide
/-- T3 row 4. -/
theorem test_txint_overflow_appends_nothing :
    ((after 0x230000000001#48 (building (some 12) [0x7A, 0x02])).map fun t => (t.rc.toNat, t.txbuf.length)) = some (8, 8) := by
  decide
/-- R74. -/
theorem test_txnib :
    ((after 0x2400000000DE#48 (building none [0x7A])).map fun t => t.txbuf.drop 7) = some [0x0D, 0x0E] := by decide
/-- T3 row 5. -/
theorem test_txnib_fills_the_capacity :
    result 0x2400000000AB#48 (building (some 12) [0x7A, 0x02]) = some (0, 0x0A) := by decide
/-- R75. -/
theorem test_txck :
    result 0x250000000000#48 (building none [0x7A, 0x08]) = some (0, 0x7E) := by decide
/-- T1 row 5. -/
theorem test_txck_idle :
    result 0x250000000000#48 atRest = some (5, 0) := by decide
/-- R76. -/
theorem test_txend :
    builder 0x260000000000#48 (building none [0x7A, 0x08]) =
    some (.sealed, [0xF0, 0x00, 0x21, 0x27, 0x6D, 0x00, 0x7A, 0x08, 0x7E, 0xF7], 0) := by decide
/-- T1 row 12. -/
theorem test_txend_without_category :
    result 0x260000000000#48 (building none []) = some (5, 0) := by decide
/-- H1 row 7. -/
theorem test_txsend_closed_keeps_the_message :
    ((after 0x270000000000#48 (sealedRescan [.closed])).map fun t => (t.rc.toNat, t.txbuf.length, t.trace)) =
    some (3, 10, [.sendFailed]) := by decide
/-- H1 row 9. -/
theorem test_txsend_ok :
    ((after 0x270000000000#48 (sealedRescan [.ok])).map fun t => (t.dout.toNat, t.txst, t.txbuf)) = some (10, .idle, []) := by
  decide
/-- R77. -/
theorem test_rdtx :
    result 0x280000000008#48 (sealedRescan []) = some (0, 0x7E) := by decide
/-- R77. -/
theorem test_rdtx_out_of_range :
    result 0x28000000000A#48 (sealedRescan []) = some (6, 0) := by decide
/-- R90. -/
theorem test_rxrecv :
    ((after 0x300000000000#48 { atRest with recvAnswers := [.message ackV15] }).map fun t =>
    (t.dout.toNat, t.rxvalid, t.rxbuf)) = some (10, true, ackV15) := by decide
/-- R90, H3. -/
theorem test_rxrecv_too_long_empties :
    ((after 0x300000000000#48 { holding downloadV1 with
      params := sampleParams none (some 9) none false, recvAnswers := [.message ackV15] }).map fun t =>
    (t.rc.toNat, t.rxvalid, t.rxbuf)) = some (8, false, []) := by decide
/-- V1. -/
theorem test_rxvalhdr :
    result 0x310000057A02#48 (holding downloadV1) = some (0, 1) := by decide
/-- V2. -/
theorem test_rxvalhdr_other_id :
    result 0x310000067A02#48 (holding downloadV1) = some (1, 0) := by decide
/-- V15. -/
theorem test_rxack :
    result 0x320000017A04#48 (holding ackV15) = some (0, 1) := by decide
/-- V16. -/
theorem test_rxack_with_checksum :
    result 0x320000017A04#48 (holding (ackV15.dropLast ++ [0x02, 0xF7])) = some (1, 0) := by decide
/-- V1. -/
theorem test_rxchk :
    result 0x330000000000#48 (holding downloadV1) = some (0, 3) := by decide
/-- V6. -/
theorem test_rxchk_wrong_sum :
    result 0x330000000000#48 (holding (downloadV1.take 15 ++ [0x50, 0xF7])) = some (0, 2) := by decide
/-- V1. -/
theorem test_rxdecode :
    ((after 0x340000000000#48 (holding downloadV1)).map fun t => (t.dout.toNat, t.dbuf)) = some (3, [0xDE, 0xAD, 0x01]) := by
  decide
/-- V10. -/
theorem test_rxdecode_odd :
    result 0x340000000000#48 (holding (downloadV1.take 12 ++ [0x5F, 0xF7])) = some (2, 0) := by decide
/-- V21. -/
theorem test_rdrx :
    result 0x35000000000F#48 (holding downloadV1) = some (0, 0x51) := by decide
/-- P5 row 8. -/
theorem test_rdrx_nothing_held :
    result 0x350000000000#48 atRest = some (5, 0) := by decide
/-- P2 row 15. -/
theorem test_rdd :
    result 0x360000000001#48 { holding downloadV1 with dvalid := true, dbuf := [0xDE, 0xAD, 0x01] } = some (0, 0xAD) := by
  decide
/-- P2 row 17. -/
theorem test_rdd_out_of_range :
    result 0x360000000003#48 { holding downloadV1 with dvalid := true, dbuf := [0xDE, 0xAD, 0x01] } = some (6, 0) := by
  decide
/-- 2.8. -/
theorem test_illegal_word_changes_nothing_else :
    (after 0x010000000001#48 (holding ackV15)) = some { holding ackV15 with rc := 7, dout := 0, err := 0x40 } := by
  decide
/-- the host's interface. -/
theorem test_first_instruction_after_reset :
    step (State.reset.withFetchWord 48 0x1000000000A5) = exec (.nibenc 0xA5) State.reset := rfl

/-! ## Witnesses: the hypotheses of every statement can be met -/

theorem fits_of (capacity : Option Nat) (n : Nat) (h : withinCapacity capacity n = true) : Fits capacity n :=
  (withinCapacity_iff_fits capacity n).mp h

theorem not_fits_of (capacity : Option Nat) (n : Nat) (h : withinCapacity capacity n = false) : ¬ Fits capacity n :=
  fun hf => by rw [(withinCapacity_iff_fits capacity n).mpr hf] at h; cases h

/-- Every command statement's clause on the words of its opcode: a word with that opcode, legal and illegal. -/
theorem witness_words_of_every_opcode :
    [0x01, 0x02, 0x03, 0x04, 0x10, 0x11, 0x12, 0x13, 0x20, 0x21, 0x22, 0x23, 0x24, 0x25, 0x26, 0x27, 0x28, 0x30, 0x31,
      0x32, 0x33, 0x34, 0x35, 0x36].all (fun o : BitVec 8 =>
        (o ++ 0#40 : CommandWord).extractLsb' 40 8 == o && (o ++ 0#40 : CommandWord).extractLsb' 0 40 == 0 &&
        (o ++ BitVec.allOnes 40 : CommandWord).extractLsb' 40 8 == o &&
        (o ++ BitVec.allOnes 40 : CommandWord).extractLsb' 32 8 != 0) = true := by decide

theorem witness_DecodedWordIsTheEncodedOne : decode 0x13FFFFFFFFFF#48 = .command (.unpack 0xFF 0xFF 0xFF 0xFF 0xFF) :=
  by decide

theorem witness_LegalWordsAreTheTableRows :
    rowOf 0x010000000001#48 = none ∧ rowOf 0x0400000000FF#48 = some ⟨"RDLEN", 0x040000000000#48, 0xFFFFFFFFFF00#48⟩ := by
  decide

theorem witness_IllegalWordsRaiseAndChangeNothingElse :
    rowOf 0x370000000000#48 = none ∧
    (rowOf 0x360000000000#48 ≠ none ∧
      issue 0x360000000000#48 { atRest with rc := 7 } = .next (raise .sequenceError atRest) ∧
      decode 0x360000000000#48 ≠ .command .rxrecv) ∧
    (rowOf 0x300000000000#48 ≠ none ∧
      issue 0x300000000000#48 { atRest with rc := 7, recvAnswers := [.closed] } =
        .next (raise .ioError { atRest with trace := [.recvFailed] }) ∧
      (raise .ioError { atRest with trace := [.recvFailed] }).waiting = false) := by
  refine ⟨by decide, ⟨by decide, rfl, by decide⟩, by decide, rfl, rfl⟩

theorem witness_StepRunsTheDecodedCommand :
    ({ atRest with inputs := [.command 0x030000000000#48, .command 0#48] } : State).waiting = false ∧
    decode 0x030000000000#48 = .command .rdstat ∧ decode 0#48 = .illegal (.unknownOpcode 0) := by decide

theorem witness_HardwareResetGivesTheResetState :
    ({ atRest with inputs := [.resetPin], waiting := true } : State).inputs = .resetPin :: [] := rfl

theorem witness_NoCommandOrNoAnswerChangesNothing :
    (({ atRest with waiting := true } : State).waiting = true ∧
      (∀ rest, ({ atRest with waiting := true } : State).inputs ≠ .resetPin :: rest) ∧
      ({ atRest with waiting := true } : State).recvAnswers = []) ∧
    ({ atRest with waiting := true, recvAnswers := [.silent] } : State).recvAnswers = .silent :: [] ∧
    (atRest.waiting = false ∧ atRest.inputs = []) := by
  refine ⟨⟨rfl, nofun, rfl⟩, rfl, rfl, rfl⟩

theorem witness_RaiseWritesCodeAndFlagOnly : 7 < 8 ∧ ErrKind.overflow.code.toNat - 1 = 7 := by decide

theorem witness_ReturnedLengthStandsInDout : 2 ^ 40 - 1 < 2 ^ 40 ∧ 2 ^ 40 ≤ 2 ^ 40 := by decide

theorem witness_RdlenReturnsTheSelectedLength : 2 < (3 : Byte).toNat := by decide

theorem witness_ChecksumIsTheUniqueCompletion :
    ((0x7E : Byte).toNat < 128 ∧ sum7 ([0x7A, 0x08] ++ [0x7E]) = 0) ∧ sum7 [0x40, 0x40] = 0 ∧ sum7 [0x7F, 0x01] = 0 := by
  decide

theorem witness_NibbleCodingRoundTrips :
    ((15 : Byte).toNat ≤ 15) ∧ 15 < (16 : Byte).toNat ∧ nibbleDecodeAll [15, 15, 0, 1] = some [0xFF, 0x01] := by decide

theorem witness_PackedIntegerRoundTrips :
    ((0x0F : Byte).toNat ≤ 15 ∧ (0x7F : Byte).toNat ≤ 127) ∧ (15 < (0x10 : Byte).toNat ∧ 127 < (0x80 : Byte).toNat) ∧
    unpackInteger 0x0F 0x7F 0x7F 0x7F 0x7F = some (2 ^ 32 - 1) := by decide

theorem witness_NibdecReturnsTheByte :
    ((15 : Byte).toNat ≤ 15 ∧ (0 : Byte).toNat ≤ 15) ∧ 15 < (16 : Byte).toNat := by decide

theorem witness_UnpackReturnsTheValue :
    ((0x0F : Byte).toNat ≤ 15 ∧ (0x7F : Byte).toNat ≤ 127) ∧ 15 < (0x10 : Byte).toNat ∧ 127 < (0x80 : Byte).toNat := by
  decide

theorem witness_TxbeginStartsAMessage : (127 : Byte).toNat ≤ 127 ∧ 127 < (128 : Byte).toNat := by decide

theorem witness_TxbyteAppendsOneByte :
    atRest.txst ≠ .opened ∧
    ((building none []).txst = .opened ∧ 127 < (128 : Byte).toNat) ∧
    ((127 : Byte).toNat ≤ 127 ∧ ¬ Fits (building (some 12) [1, 2, 3, 4]).params.txcap (10 + 1 + 2)) ∧
    Fits (building (some 12) [1, 2, 3]).params.txcap (9 + 1 + 2) := by
  refine ⟨by decide, by decide, ⟨by decide, not_fits_of _ _ rfl⟩, fits_of _ _ rfl⟩

theorem witness_TxpathAppendsOneCharacter :
    atRest.txst ≠ .opened ∧
    ((building none []).txst = .opened ∧ (0 : Byte).toNat = 0 ∧ 127 < (128 : Byte).toNat) ∧
    (1 ≤ (1 : Byte).toNat ∧ (127 : Byte).toNat ≤ 127 ∧ ¬ Fits (building (some 12) [1, 2, 3, 4]).params.txcap (10 + 1 + 2)) ∧
    Fits (building (some 12) [1, 2, 3]).params.txcap (9 + 1 + 2) := by
  refine ⟨by decide, by decide, ⟨by decide, by decide, not_fits_of _ _ rfl⟩, fits_of _ _ rfl⟩

theorem witness_TxintAppendsFiveDigits :
    atRest.txst ≠ .opened ∧
    ((building (some 12) []).txst = .opened ∧ ¬ Fits (building (some 12) []).params.txcap (6 + 5 + 2)) ∧
    Fits (building (some 13) []).params.txcap (6 + 5 + 2) := by
  refine ⟨by decide, ⟨rfl, not_fits_of _ _ rfl⟩, fits_of _ _ rfl⟩

theorem witness_TxnibAppendsTwoNibbles :
    atRest.txst ≠ .opened ∧
    ((building (some 9) []).txst = .opened ∧ ¬ Fits (building (some 9) []).params.txcap (6 + 2 + 2)) ∧
    Fits (building (some 10) []).params.txcap (6 + 2 + 2) := by
  refine ⟨by decide, ⟨rfl, not_fits_of _ _ rfl⟩, fits_of _ _ rfl⟩

/-- The parameters of the tests meet the bounds of R6, P3, P5 and P6. -/
theorem sampleParams_ok : (sampleParams none none none false).Ok :=
  ⟨by decide, by decide, nofun⟩

/-- Equal category markers do not, nor does a `TXCAP` of 8 or a `GETCFG_OFFSET` of 6. -/
theorem sampleParams_bounds :
    ¬ ({ sampleParams none none none false with catNewcfg := 0x7A } : Params).Ok ∧
    ¬ (sampleParams (some 8) none none false).Ok ∧ (sampleParams (some 9) none none false).Ok ∧
    ¬ ({ sampleParams none none none false with getcfgOffset := 6 } : Params).Ok := by
  refine ⟨fun h => absurd h.distinct (by decide), fun h => absurd (h.txcap 8 rfl) (by decide),
    ⟨by decide, by decide, fun c h => by cases h; decide⟩, fun h => absurd h.offset (by decide)⟩

/-- A state with no message meets the invariant. -/
theorem atRest_inv : Inv atRest := by
  constructor
  · exact sampleParams_ok
  · intro _; exact ⟨rfl, rfl⟩
  · intro h; cases h
  · intro h; cases h
  · exact ⟨fun _ => rfl, fun _ => rfl, nofun⟩
  · exact ⟨rfl, rfl, rfl⟩
  · intro h; exact absurd rfl h

/-- A state with a message begun and one category marker at most meets the invariant. -/
theorem building_inv (body : Bytes) (h : body = [] ∨ body = [0x7F]) : Inv (building none body) := by
  constructor
  · exact sampleParams_ok
  · intro h; cases h
  · intro _
    rcases h with rfl | rfl
    · refine ⟨by decide, ⟨0, by decide, rfl⟩, ?_, rfl, rfl⟩
      intro i hi b hb
      rw [(memRead_eq_none_iff _ _).mpr (show (building none []).txbuf.length ≤ i from hi)] at hb
      cases hb
    · refine ⟨by decide, ⟨0, by decide, rfl⟩, ?_, rfl, rfl⟩
      intro i hi b hb
      by_cases h7 : 7 ≤ i
      · rw [(memRead_eq_none_iff _ _).mpr (show (building none [0x7F]).txbuf.length ≤ i from h7)] at hb
        cases hb
      · have : i = 6 := by omega
        subst this
        injection hb with hb
        subst hb
        decide
  · intro h; cases h
  · exact ⟨fun _ => rfl, fun _ => rfl, nofun⟩
  · exact ⟨rfl, rfl, rfl⟩
  · intro h; exact absurd rfl h

/-- A state with a sealed message meets the invariant. -/
theorem sealedRescan_inv (answers : List SendAnswer) : Inv (sealedRescan answers) := by
  constructor
  · exact sampleParams_ok
  · intro h; cases h
  · intro h; cases h
  · intro _
    refine ⟨⟨?_, ?_, rfl, rfl, ?_, rfl⟩, ⟨0, by decide, rfl⟩, rfl⟩
    · show 9 ≤ 10; decide
    · show sum7 [0x7A, 0x08, 0x7E] = 0; decide
    intro i h1 h2 b hb
    have h2 : i ≤ 8 := h2
    interval_cases i <;> (injection hb with hb; subst hb; decide)
  · exact ⟨fun _ => rfl, fun _ => rfl, nofun⟩
  · exact ⟨rfl, rfl, rfl⟩
  · intro h; exact absurd rfl h

theorem witness_TxckReturnsTheChecksum :
    atRest.txst ≠ .opened ∧ (building none []).txst = .opened ∧ Inv (building none []) := by
  exact ⟨by decide, rfl, building_inv _ (.inl rfl)⟩

theorem witness_TxendSealsTheMessage :
    atRest.txst ≠ .opened ∧ ((building none []).txst = .opened ∧ (building none []).txbuf.length < 7) ∧
    ((building none [0x7F]).txst = .opened ∧ 7 ≤ (building none [0x7F]).txbuf.length ∧ Inv (building none [0x7F])) := by
  exact ⟨by decide, ⟨rfl, by decide⟩, rfl, by decide, building_inv _ (.inr rfl)⟩

theorem witness_RdtxReadsOneByte :
    (sealedRescan []).txbuf.length ≤ (10 : BitVec 32).toNat ∧
    memRead (sealedRescan []).txbuf (9 : BitVec 32).toNat = some 0xF7 ∧ (atRest.txst = .idle ∧ Inv atRest) := by
  exact ⟨by decide, by decide, rfl, atRest_inv⟩

theorem witness_TxsendHandsOverTheSealedMessage :
    atRest.txst ≠ .sealed ∧ ((sealedRescan [.closed]).txst = .sealed ∧ (sealedRescan [.closed]).sendAnswers = .closed :: []) ∧
    (sealedRescan [.ok, .closed]).sendAnswers = .ok :: [.closed] := by decide

/-- An instance with a receive capacity of 9 and a deadline, the channel's next answer given. -/
def receiving (a : RecvAnswer) : State :=
  { atRest with params := sampleParams none (some 9) none true, recvAnswers := [a], waiting := true }

theorem witness_RxrecvTakesOneMessage :
    (receiving .closed).recvAnswers = .closed :: [] ∧
    ((receiving .deadline).params.rxDeadline = true ∧ (receiving .deadline).recvAnswers = .deadline :: []) ∧
    ((receiving (.message ackV15)).recvAnswers = .message ackV15 :: [] ∧
      ¬ Fits (receiving (.message ackV15)).params.rxcap ackV15.length) ∧
    Fits (receiving (.message ackV15.dropLast)).params.rxcap ackV15.dropLast.length ∧
    (receiving .silent).recvAnswers = .silent :: [] ∧
    ((receiving .silent).waiting = true ∧ ∀ rest, (receiving .silent).inputs ≠ .resetPin :: rest) := by
  exact ⟨rfl, ⟨rfl, rfl⟩, ⟨rfl, not_fits_of _ _ rfl⟩, fits_of _ _ rfl, rfl, rfl, nofun⟩

theorem witness_UnlistedChannelAnswers :
    ((sealedRescan []).txst = .sealed ∧ (sealedRescan []).sendAnswers = []) ∧ atRest.recvAnswers = [] ∧
    (atRest.params.rxDeadline = false ∧ ({ atRest with recvAnswers := [.deadline] } : State).recvAnswers = .deadline :: []) ∧
    (atRest.rc ≠ 4 ∧ exec .rxrecv atRest = .next (keepWaiting atRest)) := by
  exact ⟨⟨rfl, rfl⟩, rfl, ⟨rfl, rfl⟩, by decide, rfl⟩

theorem witness_RxvalhdrComparesTheFirstNineBytes :
    atRest.rxvalid = false ∧ ((holding downloadV1).rxvalid = true ∧ 127 < (128 : Byte).toNat) ∧
    (downloadV1.take 9 = [0xF0, 0x00, 0x21, 0x27, 0x6D, 0x05, 0x7A, 0x00, 0x02] ∧
      (downloadV1.take 8).take 9 ≠ [0xF0, 0x00, 0x21, 0x27, 0x6D, 0x05, 0x7A, 0x00, 0x02]) := by decide

theorem witness_RxackAcceptsExactlyTheTemplate :
    atRest.rxvalid = false ∧ ((holding ackV15).rxvalid = true ∧ 127 < (128 : Byte).toNat) ∧
    (holding ackV15).rxbuf = [0xF0, 0x00, 0x21, 0x27, 0x6D, 1, 0x7A, 0, 4, 0xF7] := by decide

theorem witness_RxchkReportsFrameAndSum : atRest.rxvalid = false ∧ (holding []).rxvalid = true := by decide

theorem witness_RxdecodeDecodesThePayload :
    atRest.rxvalid = false ∧
    ((holding ackV15).rxvalid = true ∧ (holding ackV15).rxbuf.length < 11) ∧
    ((holding (downloadV1.take 12)).rxbuf.length - 11) % 2 = 1 ∧
    (9 ≤ 9 ∧ 9 + 2 < (holding [0, 0, 0, 0, 0, 0, 0, 0, 0, 16, 0, 0, 0]).rxbuf.length ∧
      memRead (holding [0, 0, 0, 0, 0, 0, 0, 0, 0, 16, 0, 0, 0]).rxbuf 9 = some 16 ∧ 15 < (16 : Byte).toNat) ∧
    ((holding downloadV1).rxbuf.length = 11 + 2 * ([0xDE, 0xAD, 0x01] : Bytes).length ∧
      memRead downloadV1 9 = some (BitVec.ofNat 8 (0xDE / 16)) ∧ memRead downloadV1 14 = some (BitVec.ofNat 8 (0x01 % 16)) ∧
      ¬ Fits (sampleParams none none (some 2) false).dcap 3 ∧ Fits (sampleParams none none (some 3) false).dcap 3) := by
  refine ⟨by decide, by decide, by decide, by decide, by decide, by decide, by decide, not_fits_of _ _ rfl, fits_of _ _ rfl⟩

/-- The hypothesis of RXDECODE on every byte of the file. -/
theorem witness_RxdecodeDecodesThePayload_data :
    ∀ k b, memRead ([0xDE, 0xAD, 0x01] : Bytes) k = some b →
      memRead downloadV1 (9 + 2 * k) = some (BitVec.ofNat 8 (b.toNat / 16)) ∧
      memRead downloadV1 (10 + 2 * k) = some (BitVec.ofNat 8 (b.toNat % 16)) := by
  intro k b h
  have hk : k < 3 := by
    by_contra hk
    rw [(memRead_eq_none_iff _ _).mpr (show ([0xDE, 0xAD, 0x01] : Bytes).length ≤ k by simpa using Nat.le_of_not_lt hk)] at h
    cases h
  interval_cases k <;> (injection h with h; subst h; decide)

theorem witness_RdrxReadsOneByte :
    atRest.rxvalid = false ∧ ((holding ackV15).rxvalid = true ∧ (holding ackV15).rxbuf.length ≤ (10 : BitVec 32).toNat) ∧
    memRead (holding ackV15).rxbuf (9 : BitVec 32).toNat = some 0xF7 := by decide

theorem witness_RddReadsOneByte :
    atRest.dvalid = false ∧
    (({ atRest with dvalid := true, dbuf := [1] } : State).dvalid = true ∧ ([1] : Bytes).length ≤ (1 : BitVec 32).toNat) ∧
    memRead ([1] : Bytes) (0 : BitVec 32).toNat = some 1 := by decide

theorem witness_EveryStepKeepsTheInvariant :
    Inv (building none []) ∧ step (building none []) = .next (building none []) :=
  ⟨building_inv _ (.inl rfl), rfl⟩

/-- A step that hands a message to the channel, from a state that meets the invariant. -/
theorem witness_EverySentMessageIsWellFormed :
    Inv (sealedRescan [.ok]) ∧ SentOk (sealedRescan [.ok]) ∧
    ((after 0x270000000000#48 (sealedRescan [.ok])).map fun t => t.trace) = some [.sent (sealedRescan []).txbuf] :=
  ⟨sealedRescan_inv _, fun _ h => (List.not_mem_nil h).elim, by decide⟩

theorem witness_HistoryOnlyGrows : step atRest = .next atRest := rfl

theorem witness_PhaseChangesOnlyAsListed :
    exec .txsend (sealedRescan [.closed]) =
      .next (raise .ioError { sealedRescan [] with trace := [.sendFailed] }) := rfl

theorem witness_FlagsAreSticky :
    (exec .rdstat { atRest with err := 0x80 } = .next (ret 0x8000 { atRest with err := 0x80 }) ∧
      ({ atRest with err := 0x80 } : State).err.getLsbD 7 = true) ∧
    (exec .rxrecv { atRest with recvAnswers := [.closed] } =
        .next (raise .ioError { atRest with trace := [.recvFailed] }) ∧
      (raise .ioError { atRest with trace := [.recvFailed] }).waiting = false ∧
      (raise .ioError { atRest with trace := [.recvFailed] }).rc ≠ 0) ∧
    (exec .txck atRest = .next (raise .sequenceError atRest) ∧
      atRest.err.getLsbD 4 = false ∧ (raise .sequenceError atRest).err.getLsbD 4 = true) := by
  exact ⟨⟨rfl, by decide⟩, ⟨rfl, rfl, by decide⟩, rfl, by decide, by decide⟩

theorem witness_FlagsAreNoInput :
    Instr.txck ≠ .clrerr ∧ Instr.txck ≠ .rdstat ∧ exec .txck atRest = .next (raise .sequenceError atRest) ∧
    exec .txck { atRest with err := 0x10 } = .next (raise .sequenceError { atRest with err := 0x10 }) :=
  ⟨by decide, by decide, rfl, rfl⟩

theorem witness_BuffersKeepTheirBytes :
    (isAppend (.txbyte 1) = true ∧ 5 < (building none []).txbuf.length) ∧
    (isAppend .txck = false ∧ exec .txck atRest = .next (raise .sequenceError atRest) ∧
      (raise .sequenceError atRest).rc ≠ 0) := ⟨by decide, by decide, rfl, by decide⟩

theorem witness_OtherElementsHaveTheirWriters :
    ((after 0x300000000000#48 { atRest with recvAnswers := [.message []] }).map fun t => (t.rxvalid, t.trace.length)) =
      some (true, 1) ∧
    ((after 0x340000000000#48 (holding downloadV1)).map fun t => t.dvalid) = some true ∧
    ((after 0x210000000001#48 (building none [])).map fun t => t.txacc.toNat) = some 1 := by decide

theorem witness_OverflowNeedsACapacity :
    atRest.params.txcap = none ∧ atRest.params.rxcap = none ∧ atRest.params.dcap = none := ⟨rfl, rfl, rfl⟩

theorem witness_OperandsOutsideTheirDomainRaise :
    (Instr.txbyte 128).inDomain = false ∧
    exec (.txbyte 128) (building none []) = .next (raise .rangeError (building none [])) := ⟨by decide, rfl⟩

/-- The state after reset of an instance with these transmit, receive and decoded capacities. -/
def bounded (txcap rxcap dcap : Nat) : State :=
  { State.reset with params := sampleParams (some txcap) (some rxcap) (some dcap) false }

theorem witness_RescanRequestIsBuilt :
    (bounded 10 0 0).waiting = false ∧ (127 : Byte).toNat ≤ 127 ∧ Fits (bounded 10 0 0).params.txcap 10 :=
  ⟨rfl, by decide, fits_of _ _ rfl⟩

theorem witness_DownloadRequestIsBuilt :
    (bounded 12 0 0).waiting = false ∧ (127 : Byte).toNat ≤ 127 ∧
    (∀ c ∈ ([0x01, 0x7F] : Bytes), 1 ≤ c.toNat ∧ c.toNat ≤ 127) ∧
    Fits (bounded 12 0 0).params.txcap (10 + ([0x01, 0x7F] : Bytes).length) ∧
    (0 : Byte).toNat = 0 ∧ 127 < (128 : Byte).toNat :=
  ⟨rfl, by decide, by decide, fits_of _ _ rfl, by decide, by decide⟩

theorem witness_UploadRequestIsBuilt :
    (bounded 26 0 0).waiting = false ∧ (127 : Byte).toNat ≤ 127 ∧
    (∀ c ∈ ([0x01, 0x7F] : Bytes), 1 ≤ c.toNat ∧ c.toNat ≤ 127) ∧ ([0xFF] : Bytes).length < 2 ^ 32 ∧
    Fits (bounded 26 0 0).params.txcap (22 + ([0x01, 0x7F] : Bytes).length + 2 * ([0xFF] : Bytes).length) :=
  ⟨rfl, by decide, by decide, by decide, fits_of _ _ rfl⟩

theorem witness_DownloadedFileRoundTrips :
    (holding downloadV1).rxvalid = true ∧
    (holding downloadV1).rxbuf = downloadResponse atRest.params 5 [0xDE, 0xAD, 0x01] 0x51 ∧ (5 : Byte).toNat ≤ 127 ∧
    Fits atRest.params.dcap 3 := ⟨rfl, by decide, by decide, fits_of _ _ rfl⟩

theorem witness_LoopedBackMessageChecks :
    Inv (sealedRescan []) ∧ (sealedRescan []).txst = .sealed ∧ (holding (sealedRescan []).txbuf).rxvalid = true ∧
    (holding (sealedRescan []).txbuf).rxbuf = (sealedRescan []).txbuf := ⟨sealedRescan_inv _, rfl, rfl, rfl⟩

/-- The host waits through silences (R101, R103): the acknowledgment comes after two of them and RXACK then sees it. -/
theorem test_host_waits_for_the_answer :
    (drive [.rxrecv, .rxack 1 0x7A 4]
      { atRest with recvAnswers := [.silent, .silent, .message (ackTemplate atRest.params 1 0x7A 4)] }).dout = 1 := by
  decide

/-- With silences only, the wait has no end that the answers list (R144). -/
theorem test_host_waits_on : (drive [.rxrecv, .rdstat] { atRest with recvAnswers := [.silent] }).waiting = true := by
  decide

/-- The remote path of a deployment begins with the text that R108 gives. -/
theorem test_plugin_folder : pluginFolder.map BitVec.toNat = "/programs/plug-ins/".toList.map Char.toNat := by decide

theorem witness_DownloadReturnsTheFile :
    (bounded 11 13 1).waiting = false ∧ (127 : Byte).toNat ≤ 127 ∧
    (∀ c ∈ ([0x7F] : Bytes), 1 ≤ c.toNat ∧ c.toNat ≤ 127) ∧ ([0xFF] : Bytes).length < 2 ^ 32 ∧
    Fits (bounded 11 13 1).params.txcap (10 + 1) ∧ Fits (bounded 11 13 1).params.rxcap (11 + 2 * 1) ∧
    Fits (bounded 11 13 1).params.dcap 1 ∧
    ∃ s : State, s.params = (bounded 11 13 1).params ∧ s.waiting = false ∧ s.sendAnswers = .ok :: [] ∧
      s.recvAnswers = List.replicate 2 .silent ++ .message (downloadResponse s.params 127 [0xFF] 0) :: [] :=
  ⟨rfl, by decide, by decide, by decide, fits_of _ _ rfl, fits_of _ _ rfl, fits_of _ _ rfl,
    { bounded 11 13 1 with
      sendAnswers := [.ok]
      recvAnswers := [.silent, .silent, .message (downloadResponse (bounded 11 13 1).params 127 [0xFF] 0)] },
    rfl, rfl, rfl, rfl⟩

theorem witness_ChunksCoverTheData :
    (chunks [0xAB])[0]? = some (0, [0xAB]) ∧ 0 < 2 ^ 32 := by decide

end Sys2Proof.Tests
end

section
/-! The invariant of the transmit builder (10_state.md R27 items 1 to 3, 5): the message under construction as a start
and a body, and the message that sealing makes of it (30_encoding.md R45, R46). -/

namespace Sys2Proof.Machine

/-! ## Codes and sums -/

/-- The result code of an error is 1 to 8 (60_exceptions.md R120). -/
theorem errKind_code_range (e : ErrKind) : 1 ≤ e.code.toNat ∧ e.code.toNat ≤ 8 := by
  cases e <;> decide

theorem sum7_append (s t : Bytes) : sum7 (s ++ t) = (sum7 s + sumBytes t) % 128 := by
  simp [sum7, sumBytes_append, Config.modulus]

theorem checksumOfSum_le (acc : Nat) : (checksumOfSum acc).toNat ≤ 127 := by
  rw [toNat_checksumOfSum]
  omega

/-- A sequence with its checksum sums to 0 modulo 128 (R61). -/
theorem sum7_append_checksum (s : Bytes) : sum7 (s ++ [checksum s]) = 0 := by
  have hlt : sum7 s < 128 := Nat.mod_lt _ (by decide)
  rw [sum7_append, sumBytes_singleton, checksum, toNat_checksumOfSum]
  omega

/-- The accumulator is 0 once its own completion is accumulated (R76, R79). -/
theorem accumulate_checksumOfSum (acc : BitVec 7) : accumulate acc [checksumOfSum acc.toNat] = 0 := by
  apply BitVec.eq_of_toNat_eq
  have hlt := acc.isLt
  rw [toNat_accumulate, sumBytes_singleton, toNat_checksumOfSum]
  show _ = 0
  omega

/-! ## The parts of a message (R45) -/

@[simp] theorem length_messageStart (p : Params) (id : Byte) : (messageStart p id).length = 6 := rfl

theorem vendorBytes_le (p : Params) : ∀ b ∈ vendorBytes p, b.toNat ≤ 127 := by
  intro b hb
  simp only [vendorBytes, List.mem_cons, List.not_mem_nil, or_false] at hb
  rcases hb with rfl | rfl | rfl | rfl <;> exact byteOf7_le _

/-- What stands between the markers of a message that the block builds. -/
def builtMiddle (p : Params) (id : Byte) (body : Bytes) : Bytes := vendorBytes p ++ id :: (body ++ [checksum body])

theorem builtMessage_eq_markers (p : Params) (id : Byte) (body : Bytes) :
    builtMessage p id body = Config.sox :: (builtMiddle p id body ++ [Config.eox]) := by
  simp [builtMessage, messageStart, builtMiddle]

@[simp] theorem length_builtMiddle (p : Params) (id : Byte) (body : Bytes) :
    (builtMiddle p id body).length = body.length + 6 := by
  simp [builtMiddle, vendorBytes]

@[simp] theorem length_builtMessage (p : Params) (id : Byte) (body : Bytes) :
    (builtMessage p id body).length = body.length + 8 := by
  simp [builtMessage_eq_markers]

theorem builtMiddle_le {p : Params} {id : Byte} {body : Bytes} (hid : id.toNat ≤ 127)
    (hbody : ∀ b ∈ body, b.toNat ≤ 127) : ∀ b ∈ builtMiddle p id body, b.toNat ≤ 127 := by
  intro b hb
  simp only [builtMiddle, List.mem_append, List.mem_cons, List.not_mem_nil, or_false] at hb
  rcases hb with hv | rfl | hb | rfl
  · exact vendorBytes_le p b hv
  · exact hid
  · exact hbody b hb
  · exact checksumOfSum_le _

/-- From index 6 through the second-to-last byte stand the body and its checksum (R46 (a)). -/
theorem slice_builtMessage_checked (p : Params) (id : Byte) (body : Bytes) :
    slice (builtMessage p id body) 6 ((builtMessage p id body).length - 2) = body ++ [checksum body] := by
  have hdrop : (builtMessage p id body).drop 6 = (body ++ [checksum body]) ++ [Config.eox] := by
    simp [builtMessage, messageStart, vendorBytes]
  rw [slice, hdrop, List.take_append_of_le_length (by simp), List.take_of_length_le (by simp)]

/-- A message that the block builds around a 7-bit-safe, nonempty body satisfies the message invariant (R46). -/
theorem messageOk_builtMessage {p : Params} {id : Byte} {body : Bytes} (hid : id.toNat ≤ 127)
    (hbody : ∀ b ∈ body, b.toNat ≤ 127) (hne : 1 ≤ body.length) : MessageOk p (builtMessage p id body) := by
  refine ⟨by simp; omega, ?_, rfl, ?_, ?_, ?_⟩
  · rw [slice_builtMessage_checked, sum7_append_checksum]
  · simp [memRead, builtMessage_eq_markers]
  · intro i h1 hi b hb
    obtain ⟨j, rfl⟩ : ∃ j, i = j + 1 := ⟨i - 1, by omega⟩
    rw [length_builtMessage] at hi
    have hmid : (builtMiddle p id body)[j]? = some b := by
      rw [memRead, builtMessage_eq_markers, List.getElem?_cons_succ,
        List.getElem?_append_left (by rw [length_builtMiddle]; omega)] at hb
      exact hb
    exact builtMiddle_le hid hbody b (List.mem_of_getElem? hmid)
  · simp [slice, builtMessage, messageStart, vendorBytes]

/-! ## The message under construction (R27 item 2) -/

/-- A buffer and its accumulator in phase `OPEN`: the start of a message and a 7-bit-safe body, whose sum is the
accumulator. -/
def OpenForm (p : Params) (buf : Bytes) (acc : BitVec 7) : Prop :=
  ∃ (id : Byte) (body : Bytes), id.toNat ≤ 127 ∧ (∀ b ∈ body, b.toNat ≤ 127) ∧
    buf = messageStart p id ++ body ∧ acc.toNat = sum7 body

/-- R27 item 2 by the parts of the message. -/
theorem openOk_iff {s : State} (hst : s.txst = .opened) :
    OpenOk s ↔ OpenForm s.params s.txbuf s.txacc ∧ withinCapacity s.params.txcap (s.txbuf.length + 2) = true := by
  constructor
  · intro h
    obtain ⟨_, ⟨id, hid, hstart⟩, hsafe, hacc, hcap⟩ := h hst
    refine ⟨⟨id, s.txbuf.drop 6, hid, ?_, ?_, hacc⟩, hcap⟩
    · intro b hb
      obtain ⟨k, hk⟩ := List.mem_iff_getElem?.mp hb
      rw [List.getElem?_drop] at hk
      exact hsafe (6 + k) (by omega) b hk
    · rw [← hstart]
      exact (List.take_append_drop 6 s.txbuf).symm
  · rintro ⟨⟨id, body, hid, hbody, hbuf, hacc⟩, hcap⟩ _
    refine ⟨by simp [hbuf], ⟨id, hid, by rw [hbuf]; rfl⟩, ?_, by rw [hacc, hbuf]; rfl, hcap⟩
    intro i hi b hb
    rw [hbuf, memRead, List.getElem?_append_right (by simpa using hi)] at hb
    exact hbody b (List.mem_of_getElem? hb)

/-- A message just begun (R70). -/
theorem openForm_start {p : Params} {id : Byte} (hid : id.toNat ≤ 127) : OpenForm p (messageStart p id) 0 :=
  ⟨id, [], hid, by simp, by simp, rfl⟩

/-- An append of 7-bit-safe bytes continues the body (R79). -/
theorem OpenForm.append {p : Params} {buf : Bytes} {acc : BitVec 7} (h : OpenForm p buf acc) {bs : Bytes}
    (hbs : ∀ b ∈ bs, b.toNat ≤ 127) : OpenForm p (buf ++ bs) (accumulate acc bs) := by
  obtain ⟨id, body, hid, hbody, hbuf, hacc⟩ := h
  refine ⟨id, body ++ bs, hid, ?_, by rw [hbuf, List.append_assoc], ?_⟩
  · intro b hb
    exact (List.mem_append.mp hb).elim (hbody b) (hbs b)
  · rw [toNat_accumulate, sum7_append, hacc]

/-- The checksum and the end marker make of a message under construction the message built around its body (R76). -/
theorem OpenForm.seal {p : Params} {buf : Bytes} {acc : BitVec 7} (h : OpenForm p buf acc) (hl : 7 ≤ buf.length) :
    ∃ (id : Byte) (body : Bytes), id.toNat ≤ 127 ∧ MessageOk p (builtMessage p id body) ∧
      buf ++ [checksumOfSum acc.toNat, Config.eox] = builtMessage p id body := by
  obtain ⟨id, body, hid, hbody, rfl, hacc⟩ := h
  rw [List.length_append, length_messageStart] at hl
  exact ⟨id, body, hid, messageOk_builtMessage hid hbody (by omega), by rw [hacc]; rfl⟩

/-! ## The transmit side of the invariant -/

/-- Items 1, 2, 3 and the first part of item 5 of R27. -/
structure TransmitOk (s : State) : Prop where
  idleOk : IdleOk s
  openOk : OpenOk s
  sealedOk : SealedOk s
  capacityOk : withinCapacity s.params.txcap s.txbuf.length = true

theorem withinCapacity_mono {capacity : Option Nat} {m n : Nat} (hmn : m ≤ n)
    (h : withinCapacity capacity n = true) : withinCapacity capacity m = true := by
  rw [withinCapacity_iff_fits] at h ⊢
  exact fun c hc => le_trans hmn (h c hc)

/-- The transmit side of the invariant reads the parameters, the phase, the buffer and the accumulator only. -/
theorem TransmitOk.of_same {s t : State} (h : TransmitOk s) (hp : t.params = s.params) (hst : t.txst = s.txst)
    (hbuf : t.txbuf = s.txbuf) (hacc : t.txacc = s.txacc) : TransmitOk t := by
  obtain ⟨hidle, hopen, hsealed, hcap⟩ := h
  constructor
  · simpa only [IdleOk, hst, hbuf, hacc] using hidle
  · simpa only [OpenOk, hp, hst, hbuf, hacc] using hopen
  · simpa only [SealedOk, hp, hst, hbuf, hacc] using hsealed
  · simpa only [hp, hbuf] using hcap

theorem transmitOk_of_idle {s : State} (hst : s.txst = .idle) (hbuf : s.txbuf = []) (hacc : s.txacc = 0) :
    TransmitOk s where
  idleOk := fun _ => ⟨hbuf, hacc⟩
  openOk := fun h => absurd (hst.symm.trans h) (by decide)
  sealedOk := fun h => absurd (hst.symm.trans h) (by decide)
  capacityOk := by rw [hbuf, withinCapacity_iff_fits]; exact fun c _ => Nat.zero_le c

theorem transmitOk_of_open {s : State} (hst : s.txst = .opened) (hform : OpenForm s.params s.txbuf s.txacc)
    (hcap : withinCapacity s.params.txcap (s.txbuf.length + 2) = true) : TransmitOk s where
  idleOk := fun h => absurd (hst.symm.trans h) (by decide)
  openOk := (openOk_iff hst).mpr ⟨hform, hcap⟩
  sealedOk := fun h => absurd (hst.symm.trans h) (by decide)
  capacityOk := withinCapacity_mono (by omega) hcap

theorem transmitOk_of_sealed {s : State} {id : Byte} {body : Bytes} (hst : s.txst = .sealed) (hid : id.toNat ≤ 127)
    (hbuf : s.txbuf = builtMessage s.params id body) (hok : MessageOk s.params (builtMessage s.params id body))
    (hacc : s.txacc = 0) (hcap : withinCapacity s.params.txcap s.txbuf.length = true) : TransmitOk s where
  idleOk := fun h => absurd (hst.symm.trans h) (by decide)
  openOk := fun h => absurd (hst.symm.trans h) (by decide)
  sealedOk := fun _ => ⟨hbuf ▸ hok, ⟨id, hid, by rw [hbuf]; rfl⟩, hacc⟩
  capacityOk := hcap

end Sys2Proof.Machine
end

section
/-! What each group of commands leaves unchanged (10_state.md R31), and how a command ends (R16, R17, R23). Each lemma
names the writers of its elements and takes every other case of `exec_effect` as a frame. -/

namespace Sys2Proof.Machine

/-! ## RXRECV (43_channel.md R90) -/

/-- An answer to a receive writes the result, the receive side, the history, the wait and the counter,
and nothing else. -/
theorem receiveAnswer_frame (a : RecvAnswer) (s : State) :
    receiveAnswer a s = { s with
      dout := (receiveAnswer a s).dout, rc := (receiveAnswer a s).rc, err := (receiveAnswer a s).err
      rxvalid := (receiveAnswer a s).rxvalid, rxbuf := (receiveAnswer a s).rxbuf
      dvalid := (receiveAnswer a s).dvalid, dbuf := (receiveAnswer a s).dbuf
      trace := (receiveAnswer a s).trace, waiting := (receiveAnswer a s).waiting
      fresh := (receiveAnswer a s).fresh } := by
  cases a with
  | silent => rfl
  | closed => rfl
  | deadline =>
    simp only [receiveAnswer]
    split <;> rfl
  | message m =>
    simp only [receiveAnswer, retLength]
    split
    · split <;> rfl
    · rfl

@[simp] theorem receiveAnswer_txst (a : RecvAnswer) (s : State) : (receiveAnswer a s).txst = s.txst :=
  (congrArg State.txst (receiveAnswer_frame a s) :)
@[simp] theorem receiveAnswer_txbuf (a : RecvAnswer) (s : State) : (receiveAnswer a s).txbuf = s.txbuf :=
  (congrArg State.txbuf (receiveAnswer_frame a s) :)
@[simp] theorem receiveAnswer_txacc (a : RecvAnswer) (s : State) : (receiveAnswer a s).txacc = s.txacc :=
  (congrArg State.txacc (receiveAnswer_frame a s) :)
@[simp] theorem receiveAnswer_params (a : RecvAnswer) (s : State) : (receiveAnswer a s).params = s.params :=
  (congrArg State.params (receiveAnswer_frame a s) :)
@[simp] theorem receiveAnswer_inputs (a : RecvAnswer) (s : State) : (receiveAnswer a s).inputs = s.inputs :=
  (congrArg State.inputs (receiveAnswer_frame a s) :)
@[simp] theorem receiveAnswer_sendAnswers (a : RecvAnswer) (s : State) :
    (receiveAnswer a s).sendAnswers = s.sendAnswers :=
  (congrArg State.sendAnswers (receiveAnswer_frame a s) :)

/-- An answer to a receive puts at most one event into the history (10_state.md R25). -/
theorem receiveAnswer_trace (a : RecvAnswer) (s : State) :
    (receiveAnswer a s).trace = s.trace ∨ ∃ e, (receiveAnswer a s).trace = s.trace ++ [e] := by
  rcases receiveAnswer_cases a s with ⟨h, _⟩ | ⟨_, h⟩ | ⟨_, _, h⟩ | ⟨m, _, ⟨_, h⟩ | ⟨_, h⟩⟩ <;> rw [h]
  · exact .inl rfl
  · exact .inr ⟨_, rfl⟩
  · exact .inr ⟨_, rfl⟩
  · exact .inr ⟨.received m, by simp⟩
  · exact .inr ⟨_, rfl⟩

/-! ## Every command -/

section
variable {i : Instr} {s t : State}

/-- R28, R141: no command writes a parameter, or the host's inputs (log entry 1). -/
theorem exec_params_inputs (h : exec i s = .next t) : t.params = s.params ∧ t.inputs = s.inputs := by
  cases exec_effect i s t h with
  | _ => subst t; simp

theorem exec_rxvalid_rxbuf (h : exec i s = .next t) (hrecv : i ≠ .rxrecv) (hreset : i ≠ .reset) :
    t.rxvalid = s.rxvalid ∧ t.rxbuf = s.rxbuf := by
  cases exec_effect i s t h with
  | resetDone hi => exact absurd hi hreset
  | waits hi => exact absurd hi hrecv
  | answered hi => exact absurd hi hrecv
  | _ => subst t; simp

theorem exec_dvalid_dbuf (h : exec i s = .next t) (hdecode : i ≠ .rxdecode) (hrecv : i ≠ .rxrecv)
    (hreset : i ≠ .reset) : t.dvalid = s.dvalid ∧ t.dbuf = s.dbuf := by
  cases exec_effect i s t h with
  | resetDone hi => exact absurd hi hreset
  | waits hi => exact absurd hi hrecv
  | answered hi => exact absurd hi hrecv
  | decoded hi => exact absurd hi hdecode
  | _ => subst t; simp

theorem exec_txbuf_txacc (h : exec i s = .next t) (happ : isAppend i = false) (hbegin : ∀ id, i ≠ .txbegin id)
    (hend : i ≠ .txend) (hsend : i ≠ .txsend) (hreset : i ≠ .reset) : t.txbuf = s.txbuf ∧ t.txacc = s.txacc := by
  cases exec_effect i s t h with
  | resetDone hi => exact absurd hi hreset
  | begun id hi => exact absurd hi (hbegin id)
  | appended bs hi => exact absurd hi (by simp [happ])
  | sealed hi => exact absurd hi hend
  | sent hi => exact absurd hi hsend
  | _ => subst t; simp

/-- An append and TXEND store at the end of `TXBUF`, if at all (20_memory.md R34, R35). -/
theorem exec_txbuf_of_append_or_txend (h : exec i s = .next t) (hi : isAppend i = true ∨ i = .txend) :
    ∃ bs, t.txbuf = append s.txbuf bs := by
  cases exec_effect i s t h with
  | resetDone hr => subst i; simp [isAppend] at hi
  | begun id hb => subst i; simp [isAppend] at hi
  | sent hs => subst i; simp [isAppend] at hi
  | appended bs => exact ⟨bs, by subst t; simp [append]⟩
  | sealed => exact ⟨[checksumOfSum s.txacc.toNat, Config.eox], by subst t; simp [append]⟩
  | _ => exact ⟨[], by subst t; simp [append]⟩

theorem exec_sendAnswers (h : exec i s = .next t) (hsend : i ≠ .txsend) : t.sendAnswers = s.sendAnswers := by
  cases exec_effect i s t h with
  | sendFailed hi => exact absurd hi hsend
  | sent hi => exact absurd hi hsend
  | _ => subst t; simp

theorem exec_recvAnswers_waiting (h : exec i s = .next t) (hrecv : i ≠ .rxrecv) :
    t.recvAnswers = s.recvAnswers ∧ t.waiting = s.waiting := by
  cases exec_effect i s t h with
  | waits hi => exact absurd hi hrecv
  | answered hi => exact absurd hi hrecv
  | _ => subst t; simp

/-- The history stays, or TXSEND or RXRECV puts one event at its end (10_state.md R25, R31). -/
theorem exec_trace (h : exec i s = .next t) :
    t.trace = s.trace ∨ (i = .txsend ∨ i = .rxrecv) ∧ ∃ e, t.trace = s.trace ++ [e] := by
  cases exec_effect i s t h with
  | sendFailed hi => exact .inr ⟨.inl hi, .sendFailed, by subst t; simp⟩
  | sent hi => exact .inr ⟨.inl hi, .sent s.txbuf, by subst t; simp⟩
  | answered hi a rest =>
    subst t
    exact (receiveAnswer_trace a { s with recvAnswers := rest }).imp_right (⟨.inr hi, ·⟩)
  | _ => exact .inl (by subst t; simp)

/-- An error of any command but RXRECV stores no byte (60_exceptions.md R126; 43_channel.md R88). -/
theorem exec_error_buffers (h : exec i s = .next t) (hrc : t.rc ≠ 0) (hrecv : i ≠ .rxrecv) (sp : Space) :
    buffer sp t = buffer sp s := by
  cases exec_effect i s t h with
  | error => subst t; cases sp <;> rfl
  | sendFailed => subst t; cases sp <;> simp [buffer]
  | waits hi => exact absurd hi hrecv
  | answered hi => exact absurd hi hrecv
  | _ => subst t; simp at hrc

end

/-! ## The result registers (R16, R17, R23) -/

/-- The ways in which `RC`, `DOUT` and `ERR` come out of a command: it completes, it raises an error, it is an RXRECV left
waiting (log entry 6), or it clears the flags. -/
inductive ResultEffect (i : Instr) (s t : State) : Prop where
  | completed (hrc : t.rc = 0) (herr : t.err = s.err)
  | raised (e : ErrKind) (hrc : t.rc = e.code) (hdout : t.dout = 0) (herr : t.err = setFlag s.err e)
  | waits (hi : i = .rxrecv) (hw : t.waiting = true) (hrc : t.rc = s.rc) (hdout : t.dout = s.dout)
      (herr : t.err = s.err)
  | cleared (hi : i = .clrerr ∨ i = .reset) (hrc : t.rc = 0) (herr : t.err = 0)

theorem receiveAnswer_result (a : RecvAnswer) (s : State) : ResultEffect .rxrecv s (receiveAnswer a s) := by
  rcases receiveAnswer_cases a s with ⟨h, _⟩ | ⟨_, h⟩ | ⟨_, _, h⟩ | ⟨m, _, ⟨_, h⟩ | ⟨_, h⟩⟩ <;> rw [h]
  · exact .waits rfl rfl rfl rfl rfl
  · exact .raised .ioError rfl rfl rfl
  · exact .raised .timeout rfl rfl rfl
  · exact .completed (by simp) (by simp)
  · exact .raised .overflow rfl rfl rfl

theorem exec_result {i : Instr} {s t : State} (h : exec i s = .next t) : ResultEffect i s t := by
  cases exec_effect i s t h with
  | error e => exact .raised e (by subst t; rfl) (by subst t; rfl) (by subst t; rfl)
  | sendFailed => exact .raised .ioError (by subst t; rfl) (by subst t; rfl) (by subst t; simp)
  | resetDone hi => exact .cleared (.inr hi) (by subst t; rfl) (by subst t; rfl)
  | flagsCleared hi => exact .cleared (.inl hi) (by subst t; rfl) (by subst t; rfl)
  | waits hi ht => subst t; exact .waits hi rfl rfl rfl rfl
  | answered hi a rest ha ht =>
    subst t i
    cases receiveAnswer_result a { s with recvAnswers := rest } with
    | completed hrc herr => exact .completed hrc herr
    | raised e hrc hdout herr => exact .raised e hrc hdout herr
    | waits hi hw hrc hdout herr => exact .waits hi hw hrc hdout herr
    | cleared hi hrc herr => exact .cleared hi hrc herr
  | _ => exact .completed (by subst t; simp) (by subst t; simp)

end Sys2Proof.Machine
end

section
/-! The invariant of R27 is kept by every step: the receive side, the result registers, then each command and each kind of
step. -/

namespace Sys2Proof.Machine

/-! ## The decoded payload (42_rx_validator.md R83, R86) -/

/-- What `nibbleDecodeAll` gives is half as long as what it takes, and each of its bytes is the decoding of its pair. -/
theorem nibbleDecodeAll_pairs {s bs : Bytes} (h : nibbleDecodeAll s = some bs) :
    s.length = 2 * bs.length ∧ ∀ k, k < bs.length → ∃ hi lo b, memRead s (2 * k) = some hi ∧
      memRead s (2 * k + 1) = some lo ∧ memRead bs k = some b ∧ nibbleDecode hi lo = some b := by
  induction bs generalizing s with
  | nil =>
    match s, h with
    | [], _ => exact ⟨rfl, fun k hk => absurd hk (Nat.not_lt_zero k)⟩
    | hi :: lo :: rest, h =>
      obtain ⟨_, _, _, _, hnil⟩ := (nibbleDecodeAll_cons hi lo rest []).mp h
      cases hnil
  | cons b bs ih =>
    match s, h with
    | hi :: lo :: rest, h =>
      obtain ⟨_, _, hb, hrest, hcons⟩ := (nibbleDecodeAll_cons hi lo rest (b :: bs)).mp h
      cases hcons
      obtain ⟨hlen, hpairs⟩ := ih hrest
      refine ⟨by simp [hlen]; omega, fun k hk => ?_⟩
      cases k with
      | zero => exact ⟨hi, lo, b, rfl, rfl, rfl, hb⟩
      | succ k => exact hpairs k (by simpa using hk)

/-- A byte of the payload region stands nine places further in the message. -/
theorem memRead_of_payload {m : Bytes} {j : Nat} {b : Byte} (h : memRead (payload m) j = some b) :
    memRead m (9 + j) = some b := by
  rw [memRead, payload, slice, List.getElem?_take] at h
  split at h
  · rwa [List.getElem?_drop] at h
  · cases h

theorem length_payload {m : Bytes} (h : 11 ≤ m.length) : (payload m).length = m.length - 11 := by
  rw [payload, slice, List.length_take, List.length_drop]
  omega

/-! ## The receive side of the invariant -/

/-- Item 4 and the other parts of item 5 of R27. -/
structure ReceiveSideOk (s : State) : Prop where
  receiveOk : ReceiveOk s
  rxcapOk : withinCapacity s.params.rxcap s.rxbuf.length = true
  dcapOk : withinCapacity s.params.dcap s.dbuf.length = true

/-- The receive side of the invariant reads the parameters, both buffers and their valid bits only. -/
theorem ReceiveSideOk.of_same {s t : State} (h : ReceiveSideOk s) (hp : t.params = s.params)
    (hrv : t.rxvalid = s.rxvalid) (hrb : t.rxbuf = s.rxbuf) (hdv : t.dvalid = s.dvalid) (hdb : t.dbuf = s.dbuf) :
    ReceiveSideOk t := by
  obtain ⟨hrecv, hrcap, hdcap⟩ := h
  constructor
  · simpa only [ReceiveOk, hrv, hrb, hdv, hdb] using hrecv
  · simpa only [hp, hrb] using hrcap
  · simpa only [hp, hdb] using hdcap

/-- No decoded payload, and a message that fits, or none. -/
theorem receiveSideOk_of_not_decoded {s : State} (hrx : s.rxvalid = false → s.rxbuf = [])
    (hfits : Fits s.params.rxcap s.rxbuf.length) (hdv : s.dvalid = false) (hdb : s.dbuf = []) : ReceiveSideOk s where
  receiveOk := ⟨hrx, fun _ => hdb, fun h => absurd (hdv.symm.trans h) (by decide)⟩
  rxcapOk := (withinCapacity_iff_fits _ _).mpr hfits
  dcapOk := by rw [hdb, withinCapacity_iff_fits]; exact fun c _ => Nat.zero_le c

/-- A payload just decoded from the message held (R83). -/
theorem receiveSideOk_of_decoded {s : State} (hrv : s.rxvalid = true) (h11 : 11 ≤ s.rxbuf.length)
    (hrcap : withinCapacity s.params.rxcap s.rxbuf.length = true) (hdv : s.dvalid = true)
    (hd : nibbleDecodeAll (payload s.rxbuf) = some s.dbuf) (hfits : Fits s.params.dcap s.dbuf.length) :
    ReceiveSideOk s := by
  obtain ⟨hlen, hpairs⟩ := nibbleDecodeAll_pairs hd
  rw [length_payload h11] at hlen
  refine ⟨⟨fun h => absurd (hrv.symm.trans h) (by decide), fun h => absurd (hdv.symm.trans h) (by decide),
    fun _ => ⟨hrv, h11, hlen, fun k hk => ?_⟩⟩, hrcap, (withinCapacity_iff_fits _ _).mpr hfits⟩
  obtain ⟨hi, lo, b, hhi, hlo, hb, hdec⟩ := hpairs k hk
  refine ⟨hi, lo, b, memRead_of_payload hhi, ?_, hb, hdec⟩
  rw [show 10 + 2 * k = 9 + (2 * k + 1) by omega]
  exact memRead_of_payload hlo

theorem receiveAnswer_receiveSideOk (a : RecvAnswer) {s : State} (h : ReceiveSideOk s) :
    ReceiveSideOk (receiveAnswer a s) := by
  rcases receiveAnswer_cases a s with ⟨ha, _⟩ | ⟨_, ha⟩ | ⟨_, _, ha⟩ | ⟨m, _, ⟨hfits, ha⟩ | ⟨_, ha⟩⟩ <;> rw [ha]
  · exact h.of_same rfl rfl rfl rfl rfl
  · exact h.of_same rfl rfl rfl rfl rfl
  · exact h.of_same rfl rfl rfl rfl rfl
  · exact receiveSideOk_of_not_decoded (by simp) (by simpa using hfits) (by simp) (by simp)
  · exact receiveSideOk_of_not_decoded (fun _ => rfl) (fun c _ => Nat.zero_le c) rfl rfl

/-! ## Each part is kept by every command -/

theorem exec_transmitOk {i : Instr} {s t : State} (h : exec i s = .next t) (hp : s.params.Ok) (hs : TransmitOk s) :
    TransmitOk t := by
  cases exec_effect i s t h with
  | resetDone _ ht => subst t; exact transmitOk_of_idle rfl rfl rfl
  | begun id _ hid ht =>
    subst t
    refine transmitOk_of_open rfl (openForm_start (by simpa [sevenBitSafe] using hid)) ?_
    rw [withinCapacity_iff_fits]
    intro c hc
    have h9 : 9 ≤ c := hp.txcap c hc
    show 6 + 2 ≤ c
    omega
  | appended bs _ hst hbs hfits ht =>
    obtain ⟨hform, _⟩ := (openOk_iff hst).mp hs.openOk
    subst t
    exact transmitOk_of_open (by simpa using hst) (by simpa using hform.append hbs)
      (by simpa [withinCapacity_iff_fits] using hfits)
  | sealed _ hst hl ht =>
    obtain ⟨hform, hcap⟩ := (openOk_iff hst).mp hs.openOk
    obtain ⟨id, body, hid, hok, hbuf⟩ := hform.seal hl
    subst t
    exact transmitOk_of_sealed (by simp) hid (by simpa using hbuf) (by simpa using hok)
      (by simpa using accumulate_checksumOfSum s.txacc) (by simpa using hcap)
  | sent _ _ ht => subst t; exact transmitOk_of_idle (by simp) (by simp) (by simp)
  | _ => subst t; exact hs.of_same (by simp) (by simp) (by simp) (by simp)

theorem exec_receiveSideOk {i : Instr} {s t : State} (h : exec i s = .next t) (hs : ReceiveSideOk s) :
    ReceiveSideOk t := by
  cases exec_effect i s t h with
  | resetDone _ ht =>
    subst t
    exact receiveSideOk_of_not_decoded (fun _ => rfl) (fun c _ => Nat.zero_le c) rfl rfl
  | answered _ a rest _ ht =>
    subst t
    exact receiveAnswer_receiveSideOk a (hs.of_same rfl rfl rfl rfl rfl)
  | decoded _ bs hrv h11 _ hd hfits ht =>
    subst t
    exact receiveSideOk_of_decoded (by simpa using hrv) (by simpa using h11) (by simpa using hs.rxcapOk) (by simp)
      (by simpa using hd) (by simpa using hfits)
  | _ => subst t; exact hs.of_same (by simp) (by simp) (by simp) (by simp) (by simp)

theorem resultOk_of_rc_zero {s : State} (h : s.rc = 0) : ResultOk s := fun hne => absurd h hne

/-- The error just raised is 1 to 8 and its flag is set (R126). -/
theorem resultOk_of_raised {t : State} {err : BitVec 8} {e : ErrKind} (hrc : t.rc = e.code) (hdout : t.dout = 0)
    (herr : t.err = setFlag err e) : ResultOk t := by
  intro _
  refine ⟨by rw [hrc]; exact (errKind_code_range e).2, hdout, ?_⟩
  rw [herr, hrc, getLsbD_setFlag]
  simp

theorem exec_resultOk {i : Instr} {s t : State} (h : exec i s = .next t) (hs : ResultOk s) : ResultOk t := by
  cases exec_result h with
  | completed hrc => exact resultOk_of_rc_zero hrc
  | raised e hrc hdout herr => exact resultOk_of_raised hrc hdout herr
  | waits _ _ hrc hdout herr => simpa only [ResultOk, hrc, hdout, herr] using hs
  | cleared _ hrc => exact resultOk_of_rc_zero hrc

/-! ## The invariant as its parts -/

/-- The invariant, its transmit side and its receive side taken together. -/
theorem inv_iff_parts (s : State) :
    Inv s ↔ s.params.Ok ∧ TransmitOk s ∧ ReceiveSideOk s ∧ ResultOk s := by
  constructor
  · rintro ⟨hp, hidle, hopen, hsealed, hrecv, ⟨htx, hrx, hd⟩, hres⟩
    exact ⟨hp, ⟨hidle, hopen, hsealed, htx⟩, ⟨hrecv, hrx, hd⟩, hres⟩
  · rintro ⟨hp, ⟨hidle, hopen, hsealed, htx⟩, ⟨hrecv, hrx, hd⟩, hres⟩
    exact ⟨hp, hidle, hopen, hsealed, hrecv, ⟨htx, hrx, hd⟩, hres⟩

/-- A state with every element of R28 that the invariant reads at its reset value. -/
theorem inv_of_reset_values {s : State} (hp : s.params.Ok) (hrc : s.rc = 0) (hst : s.txst = .idle) (htb : s.txbuf = [])
    (hacc : s.txacc = 0) (hrb : s.rxbuf = []) (hdv : s.dvalid = false) (hdb : s.dbuf = []) : Inv s :=
  (inv_iff_parts s).mpr ⟨hp, transmitOk_of_idle hst htb hacc,
    receiveSideOk_of_not_decoded (fun _ => hrb) (by rw [hrb]; exact fun c _ => Nat.zero_le c) hdv hdb,
    resultOk_of_rc_zero hrc⟩

/-- The host's coming inputs are no part of the invariant. -/
theorem inv_with_inputs {s : State} (h : Inv s) (inputs : List HostInput) : Inv { s with inputs := inputs } := by
  obtain ⟨hp, htx, hrx, hres⟩ := (inv_iff_parts s).mp h
  exact (inv_iff_parts _).mpr ⟨hp, htx.of_same rfl rfl rfl rfl, hrx.of_same rfl rfl rfl rfl rfl, hres⟩

theorem inv_raise {s : State} (h : Inv s) (e : ErrKind) : Inv (raise e s) := by
  obtain ⟨hp, htx, hrx, _⟩ := (inv_iff_parts s).mp h
  exact (inv_iff_parts _).mpr ⟨hp, htx.of_same rfl rfl rfl rfl, hrx.of_same rfl rfl rfl rfl rfl,
    resultOk_of_raised rfl rfl rfl⟩

/-- Every command keeps the invariant. -/
theorem exec_inv {i : Instr} {s t : State} (h : exec i s = .next t) (hs : Inv s) : Inv t := by
  obtain ⟨hp, htx, hrx, hres⟩ := (inv_iff_parts s).mp hs
  exact (inv_iff_parts t).mpr ⟨(exec_params_inputs h).1 ▸ hp, exec_transmitOk h hp htx, exec_receiveSideOk h hrx,
    exec_resultOk h hres⟩

/-! ## The step -/

/-- The ways in which a step reaches its next state, the inputs that are left apart. -/
inductive StepEffect (s t : State) : Prop where
  | idle (h : t = s)
  | resetPin (rest : List HostInput) (h : t = hardwareReset { s with inputs := rest })
  | illegal (rest : List HostInput) (h : t = raise .illegalCommand { s with inputs := rest })
  | command (i : Instr) (rest : List HostInput) (h : exec i { s with inputs := rest } = .next t)

theorem step_effect {s t : State} (h : step s = .next t) : StepEffect s t := by
  rcases step_cases s with ⟨rest, _, hstep⟩ | ⟨w, rest, _, _, hstep⟩ | ⟨_, _, hstep⟩ | ⟨_, _, hstep⟩
  · rw [hstep] at h
    cases h
    exact .resetPin rest rfl
  · rcases issue_cases w { s with inputs := rest } with ⟨i, _, hissue⟩ | ⟨_, _, hissue⟩
    · exact .command i rest (by rw [← hissue, ← hstep, h])
    · rw [hstep, hissue] at h
      cases h
      exact .illegal rest rfl
  · exact .command .rxrecv s.inputs (hstep ▸ h)
  · rw [hstep] at h
    cases h
    exact .idle rfl

theorem step_inv {s t : State} (hs : Inv s) (h : step s = .next t) : Inv t := by
  cases step_effect h with
  | idle ht => exact ht ▸ hs
  | resetPin rest ht => subst t; exact inv_of_reset_values hs.paramsOk rfl rfl rfl rfl rfl rfl rfl
  | illegal rest ht => subst t; exact inv_raise (inv_with_inputs hs rest) _
  | command i rest hexec => exact exec_inv hexec (inv_with_inputs hs rest)

/-- Settles O42, by the kinds of step and, for a command, by the parts of the invariant. -/
theorem everyStepKeepsTheInvariant : Obligations.EveryStepKeepsTheInvariant :=
  fun _ _ => step_inv

/-- Settles O44, by the kinds of step; a command's part is the frame of the parameters and the inversion of the history. -/
theorem historyOnlyGrows : Obligations.HistoryOnlyGrows := by
  unfold Obligations.HistoryOnlyGrows
  intro s t h
  cases step_effect h with
  | idle ht => subst t; exact ⟨rfl, .inl rfl⟩
  | resetPin rest ht => subst t; exact ⟨rfl, .inl rfl⟩
  | illegal rest ht => subst t; exact ⟨rfl, .inl rfl⟩
  | command i rest hexec => exact ⟨(exec_params_inputs hexec).1, (exec_trace hexec).imp_right And.right⟩

/-- Settles O7: the reset input stands first, so nothing else is pending. -/
theorem hardwareResetGivesTheResetState : Obligations.HardwareResetGivesTheResetState := by
  unfold Obligations.HardwareResetGivesTheResetState
  intro s rest hin
  have hpending : pending s = .resetPin { s with inputs := rest } := by simp only [pending, hin]
  rw [step, hpending]
  rfl

/-- Settles O41: the reset values are read off, and they are enough for the invariant. -/
theorem resetStateMeetsTheInvariant : Obligations.ResetStateMeetsTheInvariant := by
  unfold Obligations.ResetStateMeetsTheInvariant
  have hinv : Inv State.reset := inv_of_reset_values Config.params_ok rfl rfl rfl rfl rfl rfl rfl
  have hsent : SentOk State.reset := fun m hm => absurd hm List.not_mem_nil
  exact ⟨rfl, rfl, rfl, rfl, rfl, rfl, rfl, rfl, rfl, rfl, rfl, rfl, hinv, hsent⟩

end Sys2Proof.Machine
end

section
/-! The frame statements (10_state.md R18, R23, R31; 20_memory.md R33, R34; 60_exceptions.md R131), assembled from what
each group of commands leaves unchanged, and the return of a length. -/

namespace Sys2Proof.Machine

/-! ## The phase (R18) -/

/-- Settles O45, by the ways in which a command reaches its next state. -/
theorem phaseChangesOnlyAsListed : Obligations.PhaseChangesOnlyAsListed := by
  unfold Obligations.PhaseChangesOnlyAsListed
  intro i s t h
  cases exec_effect i s t h with
  | resetDone hi ht => exact .inr (.inr (.inr (.inr ⟨by subst t; rfl, hi⟩)))
  | begun id hi hid ht => exact .inr (.inl ⟨by subst t; rfl, id, hi⟩)
  | appended bs hi hst hbs hfits ht => exact .inl (by subst t; simp)
  | sealed hi hst hl ht => exact .inr (.inr (.inl ⟨hst, by subst t; simp, hi⟩))
  | sent hi hst ht => exact .inr (.inr (.inr (.inl ⟨hst, by subst t; simp, hi, by subst t; simp⟩)))
  | _ => exact .inl (by subst t; simp)

/-! ## The flags (R23) -/

theorem exec_keeps_flag {i : Instr} {s t : State} {k : Nat} (h : exec i s = .next t) (hclr : i ≠ .clrerr)
    (hreset : i ≠ .reset) (hk : s.err.getLsbD k = true) : t.err.getLsbD k = true := by
  cases exec_result h with
  | completed _ herr => rwa [herr]
  | raised e _ _ herr => rw [herr, getLsbD_setFlag, hk, Bool.true_or]
  | waits _ _ _ _ herr => rwa [herr]
  | cleared hi => exact (hi.elim hclr hreset).elim

theorem exec_error_sets_flag {i : Instr} {s t : State} (h : exec i s = .next t) (hw : i = .rxrecv → t.waiting = false)
    (hrc : t.rc ≠ 0) : t.rc.toNat ≤ 8 ∧ t.err.getLsbD (t.rc.toNat - 1) = true := by
  cases exec_result h with
  | completed hzero => exact absurd hzero hrc
  | raised e hcode hdout herr =>
    obtain ⟨hle, _, hflag⟩ := resultOk_of_raised hcode hdout herr hrc
    exact ⟨hle, hflag⟩
  | waits hi hwait => exact absurd ((hw hi).symm.trans hwait) (by decide)
  | cleared _ hzero => exact absurd hzero hrc

/-- A bit of `ERR` that becomes set belongs to the result code of the command (R23). -/
theorem exec_new_flag_is_rc {i : Instr} {s t : State} {k : Nat} (h : exec i s = .next t)
    (hs : s.err.getLsbD k = false) (ht : t.err.getLsbD k = true) : t.rc.toNat = k + 1 := by
  cases exec_result h with
  | completed _ herr => rw [herr, hs] at ht; cases ht
  | raised e hcode _ herr =>
    rw [herr, getLsbD_setFlag, hs, Bool.false_or, decide_eq_true_iff] at ht
    have hpos := (errKind_code_range e).1
    rw [hcode]
    omega
  | waits _ _ _ _ herr => rw [herr, hs] at ht; cases ht
  | cleared _ _ herr => rw [herr] at ht; simp at ht

/-- Settles O46, clause by clause from the inversion of the result registers. -/
theorem flagsAreSticky : Obligations.FlagsAreSticky :=
  ⟨fun _ _ _ _ h hclr hreset => exec_keeps_flag h hclr hreset, fun _ _ _ h => exec_error_sets_flag h,
    fun _ _ _ _ h => exec_new_flag_is_rc h⟩

/-! ## The flags are no input (R131) -/

/-- The state with other flags. -/
def withErr (e : BitVec 8) (s : State) : State := { s with err := e }

/-- Two outcomes are next states that differ at most in `ERR`. -/
def AgreeButErr (o o' : Host.Outcome State Fault Refusal) : Prop :=
  ∃ (t : State) (f : BitVec 8), o = .next t ∧ o' = .next (withErr f t)

section
variable (e : BitVec 8) (s : State)

theorem retLength_withErr (n : Nat) : retLength n (withErr e s) = withErr e (retLength n s) := by
  unfold retLength
  split <;> rfl

theorem sendAsked_withErr : sendAsked (withErr e s) = withErr e (sendAsked s) := by
  simp only [sendAsked, withErr]
  cases s.sendAnswers <;> rfl

theorem sendReply_withErr : sendReply (withErr e s) = sendReply s := rfl

theorem agreeButErr_endOk (v : Word40) : AgreeButErr (endOk v s) (endOk v (withErr e s)) := ⟨_, e, rfl, rfl⟩

theorem agreeButErr_endRaise (k : ErrKind) : AgreeButErr (endRaise k s) (endRaise k (withErr e s)) :=
  ⟨_, setFlag e k, rfl, rfl⟩

theorem agreeButErr_endLength (n : Nat) : AgreeButErr (endLength n s) (endLength n (withErr e s)) :=
  ⟨_, e, rfl, by rw [endLength_eq, retLength_withErr]⟩

theorem agreeButErr_ite {c : Prop} [Decidable c] {a a' b b' : Host.Outcome State Fault Refusal}
    (ha : AgreeButErr a a') (hb : AgreeButErr b b') : AgreeButErr (if c then a else b) (if c then a' else b') := by
  split
  · exact ha
  · exact hb

theorem agreeButErr_readIndex (buf : Bytes) (idx : BitVec 32) :
    AgreeButErr (readIndex buf idx s) (readIndex buf idx (withErr e s)) := by
  unfold readIndex
  cases memRead buf idx.toNat with
  | none => exact agreeButErr_endRaise e s _
  | some b => exact agreeButErr_endOk e s _

theorem agreeButErr_appendAndReturn (bs : Bytes) :
    AgreeButErr (appendAndReturn bs s) (appendAndReturn bs (withErr e s)) := by
  unfold appendAndReturn
  by_cases hc : withinCapacity s.params.txcap (s.txbuf.length + bs.length + 2) = true
  · have hs : txAppend bs s = some { s with txbuf := append s.txbuf bs, txacc := accumulate s.txacc bs } := if_pos hc
    have hs' : txAppend bs (withErr e s) =
        some (withErr e { s with txbuf := append s.txbuf bs, txacc := accumulate s.txacc bs }) := if_pos hc
    rw [hs, hs']
    exact agreeButErr_endLength e _ _
  · have hs : txAppend bs s = none := if_neg hc
    have hs' : txAppend bs (withErr e s) = none := if_neg hc
    rw [hs, hs']
    exact agreeButErr_endRaise e s _

theorem agreeButErr_next_ite {c : Prop} [Decidable c] {a a' b b' : State} (ha : AgreeButErr (.next a) (.next a'))
    (hb : AgreeButErr (.next b) (.next b')) :
    AgreeButErr (.next (if c then a else b)) (.next (if c then a' else b')) := by
  split
  · exact ha
  · exact hb

theorem agreeButErr_receiveAnswer (a : RecvAnswer) :
    AgreeButErr (.next (receiveAnswer a s)) (.next (receiveAnswer a (withErr e s))) := by
  cases a with
  | silent => exact ⟨_, e, rfl, rfl⟩
  | closed => exact agreeButErr_endRaise e (record .recvFailed { s with waiting := false }) _
  | deadline =>
    exact agreeButErr_next_ite
      (agreeButErr_endRaise e (record .recvDeadline { s with waiting := false }) _) ⟨_, e, rfl, rfl⟩
  | message m =>
    exact agreeButErr_next_ite
      (agreeButErr_endLength e (holdMessage m (record (.received m) { s with waiting := false })) _)
      (agreeButErr_endRaise e (emptyReceive (record (.received m) { s with waiting := false })) _)

theorem agreeButErr_txsend : AgreeButErr (execTxsend s) (execTxsend (withErr e s)) := by
  unfold execTxsend
  refine agreeButErr_ite (agreeButErr_endRaise e s _) ?_
  rw [sendAsked_withErr, sendReply_withErr]
  cases sendReply s with
  | closed => exact agreeButErr_endRaise e (record .sendFailed (sendAsked s)) _
  | ok =>
    exact agreeButErr_endLength e
      { record (.sent s.txbuf) (sendAsked s) with txbuf := [], txacc := 0, txst := .idle } _

theorem agreeButErr_rxrecv : AgreeButErr (execRxrecv s) (execRxrecv (withErr e s)) := by
  have hsame : (withErr e s).recvAnswers = s.recvAnswers := rfl
  unfold execRxrecv
  rw [hsame]
  cases s.recvAnswers with
  | nil => exact ⟨_, e, rfl, rfl⟩
  | cons a rest => exact agreeButErr_receiveAnswer e { s with recvAnswers := rest } a

theorem agreeButErr_rxdecode : AgreeButErr (execRxdecode s) (execRxdecode (withErr e s)) := by
  refine agreeButErr_ite (agreeButErr_endRaise e s _) (agreeButErr_ite (agreeButErr_endRaise e s _)
    (agreeButErr_ite (agreeButErr_endRaise e s _) ?_))
  simp only [withErr]
  cases nibbleDecodeAll (payload s.rxbuf) with
  | none => exact agreeButErr_endRaise e s _
  | some bs =>
    exact agreeButErr_ite (agreeButErr_endLength e { s with dbuf := bs, dvalid := true } _) (agreeButErr_endRaise e s _)

theorem agreeButErr_rdlen (sel : Byte) : AgreeButErr (execRdlen sel s) (execRdlen sel (withErr e s)) := by
  unfold execRdlen
  split
  · exact agreeButErr_endLength e s _
  · exact agreeButErr_endLength e s _
  · exact agreeButErr_endLength e s _
  · exact agreeButErr_endRaise e s _

/-- Every command but those that return the flags does the same whatever the flags are. -/
theorem exec_agreeButErr (i : Instr) (hclr : i ≠ .clrerr) (hstat : i ≠ .rdstat) :
    AgreeButErr (exec i s) (exec i (withErr e s)) := by
  have error (k : ErrKind) := agreeButErr_endRaise e s k
  have value (v : Word40) := agreeButErr_endOk e s v
  have appends (bs : Bytes) := agreeButErr_appendAndReturn e s bs
  cases i with
  | clrerr => exact absurd rfl hclr
  | rdstat => exact absurd rfl hstat
  | reset => exact ⟨_, 0, rfl, rfl⟩
  | rdlen sel => exact agreeButErr_rdlen e s sel
  | nibenc b => exact value _
  | nibdec hi lo =>
    simp only [exec, execNibdec]
    cases nibbleDecode hi lo with
    | none => exact error _
    | some b => exact value _
  | pack v => exact value _
  | unpack d4 d3 d2 d1 d0 =>
    simp only [exec, execUnpack]
    cases unpackInteger d4 d3 d2 d1 d0 with
    | none => exact error _
    | some v => exact value _
  | txbegin id => exact agreeButErr_ite ⟨_, e, rfl, rfl⟩ (error _)
  | txbyte b => exact agreeButErr_ite (error _) (agreeButErr_ite (appends _) (error _))
  | txpath c => exact agreeButErr_ite (error _) (agreeButErr_ite (appends _) (error _))
  | txint v => exact agreeButErr_ite (error _) (appends _)
  | txnib b => exact agreeButErr_ite (error _) (appends _)
  | txck => exact agreeButErr_ite (error _) (value _)
  | txend =>
    exact agreeButErr_ite (error _) (agreeButErr_ite (error _) (agreeButErr_endLength e
      { s with
        txbuf := append s.txbuf [checksumOfSum s.txacc.toNat, Config.eox]
        txacc := accumulate s.txacc [checksumOfSum s.txacc.toNat]
        txst := .sealed } _))
  | txsend => exact agreeButErr_txsend e s
  | rdtx idx => exact agreeButErr_readIndex e s _ _
  | rxrecv => exact agreeButErr_rxrecv e s
  | rxvalhdr id cat op => exact agreeButErr_ite (error _) (agreeButErr_ite (error _) (agreeButErr_ite (value _) (error _)))
  | rxack id cat op => exact agreeButErr_ite (error _) (agreeButErr_ite (error _) (agreeButErr_ite (value _) (error _)))
  | rxchk => exact agreeButErr_ite (error _) (value _)
  | rxdecode => exact agreeButErr_rxdecode e s
  | rdrx idx => exact agreeButErr_ite (error _) (agreeButErr_readIndex e s _ _)
  | rdd idx => exact agreeButErr_ite (error _) (agreeButErr_readIndex e s _ _)

end

/-- Settles O47, by the agreement of the two runs. -/
theorem flagsAreNoInput : Obligations.FlagsAreNoInput := by
  unfold Obligations.FlagsAreNoInput
  intro i s t u e hclr hstat ht hu
  obtain ⟨t', f, ht', hu'⟩ := exec_agreeButErr e s i hclr hstat
  cases ht.symm.trans ht'
  cases hu.symm.trans hu'
  rfl

/-! ## The buffers and the other elements (R31, R33, R34) -/

/-- Settles O48: where a buffer is the same, every read of it is; an append keeps the reads below the old length. -/
theorem buffersKeepTheirBytes : Obligations.BuffersKeepTheirBytes := by
  unfold Obligations.BuffersKeepTheirBytes
  intro i s t h
  refine ⟨fun hrecv hreset a => ?_, fun hdecode hrecv hreset a => ?_, fun happ hbegin hend hsend hreset a => ?_,
    fun hi a ha => ?_, fun hrc hrecv sp a => ?_⟩
  · exact congrArg (memRead · a) (exec_rxvalid_rxbuf h hrecv hreset).2
  · exact congrArg (memRead · a) (exec_dvalid_dbuf h hdecode hrecv hreset).2
  · exact congrArg (memRead · a) (exec_txbuf_txacc h happ hbegin hend hsend hreset).1
  · obtain ⟨bs, hbuf⟩ := exec_txbuf_of_append_or_txend h hi
    exact (congrArg (memRead · a) hbuf).trans (memRead_append_of_lt s.txbuf bs a ha)
  · exact congrArg (memRead · a) (exec_error_buffers h hrc hrecv sp)

/-- Settles O49: each clause is a frame lemma read backwards. -/
theorem otherElementsHaveTheirWriters : Obligations.OtherElementsHaveTheirWriters := by
  unfold Obligations.OtherElementsHaveTheirWriters
  intro i s t h
  obtain ⟨hparams, hinputs⟩ := exec_params_inputs h
  refine ⟨fun hne => ?_, fun hne => ?_, fun hne => ?_, fun hne => ?_, fun hne => ?_, fun hne => ?_, hinputs, hparams⟩
  · by_contra! hi
    exact hne (exec_rxvalid_rxbuf h hi.1 hi.2).1
  · by_contra! hi
    obtain ⟨hdecode, hrecv, hreset⟩ := hi
    exact hne (exec_dvalid_dbuf h hdecode hrecv hreset).1
  · by_contra! hi
    obtain ⟨happ, hbegin, hend, hsend, hreset⟩ := hi
    exact hne (exec_txbuf_txacc h (Bool.eq_false_iff.mpr happ) hbegin hend hsend hreset).2
  · exact (exec_trace h).elim (absurd · hne) And.left
  · by_contra hi
    exact hne (exec_sendAnswers h hi)
  · by_contra hi
    obtain ⟨hrecv, hwait⟩ := exec_recvAnswers_waiting h hi
    exact hne.elim (absurd hrecv) (absurd hwait)

/-! ## Returned lengths (R16, R17; U7) -/

/-- Settles O11, by whether the length fits `DOUT`. -/
theorem returnedLengthStandsInDout : Obligations.ReturnedLengthStandsInDout := by
  unfold Obligations.ReturnedLengthStandsInDout
  intro n s
  refine ⟨fun hlt => ?_, fun hle => ⟨Config.wideLength s.fresh, retLength_of_le hle s⟩⟩
  rw [retLength_of_lt hlt]
  exact ⟨rfl, by rw [ret_dout, BitVec.toNat_ofNat, Nat.mod_eq_of_lt hlt]⟩

end Sys2Proof.Machine
end

section
/-! Decoder, encoder and opcode table agree (30_encoding.md R40 to R43), and a step takes the word presented (R40). -/

namespace Sys2Proof

/-! ## The opcode of a command (R42) -/

/-- Behind the opcode of a command stands a command of that form and name, whatever the argument. -/
theorem commandOf_opcode (j : Instr) (arg : Word40) :
    ∃ i, commandOf j.opcode arg = some (j.form, i) ∧ i.mnemonic = j.mnemonic := by
  cases j <;> exact ⟨_, rfl, rfl⟩

/-- From the argument of a command the operands are read back. -/
theorem commandOf_argument (i : Instr) : commandOf i.opcode i.argument = some (i.form, i) := by
  cases i with
  | rdlen | nibenc | txbegin | txbyte | txpath | txnib =>
    simp only [Instr.opcode, Instr.argument, Instr.form, commandOf, lane_zero_argB]
  | nibdec => simp only [Instr.opcode, Instr.argument, Instr.form, commandOf, lane_zero_argHL, lane_one_argHL]
  | rxvalhdr | rxack =>
    simp only [Instr.opcode, Instr.argument, Instr.form, commandOf, lane_zero_argT, lane_one_argT, lane_two_argT]
  | pack | txint | rdtx | rdrx | rdd =>
    simp only [Instr.opcode, Instr.argument, Instr.form, commandOf, valueField_argV]
  | unpack =>
    simp only [Instr.opcode, Instr.argument, Instr.form, commandOf, lane_zero_argD, lane_one_argD, lane_two_argD,
      lane_three_argD, lane_four_argD]
  | _ => rfl

/-- The argument of a command has no 1 in a bit that its form does not use (R41). -/
theorem unusedZero_argument (i : Instr) : i.form.unusedZero i.argument = true := by
  cases i with
  | rdlen b | nibenc b | txbegin b | txbyte b | txpath b | txnib b => exact unusedZero_argB b
  | nibdec hi lo => exact unusedZero_argHL hi lo
  | rxvalhdr id cat op | rxack id cat op => exact unusedZero_argT id cat op
  | pack v | txint v | rdtx v | rdrx v | rdd v => exact unusedZero_argV v
  | unpack => exact unusedZero_d _
  | _ => exact unusedZero_n

/-- The argument laid out anew from the operands that a form reads (R41). -/
def Form.relaid (f : Form) (arg : Word40) : Word40 :=
  match f with
  | .n => 0#40
  | .b => argB (lane 0 arg)
  | .hl => argHL (lane 1 arg) (lane 0 arg)
  | .t => argT (lane 2 arg) (lane 1 arg) (lane 0 arg)
  | .v => argV (valueField arg)
  | .d => argD (lane 4 arg) (lane 3 arg) (lane 2 arg) (lane 1 arg) (lane 0 arg)

/-- The operands hold the whole argument when the bits that the form does not use are 0 (R41, R43). -/
theorem Form.relaid_eq {f : Form} {arg : Word40} (h : f.unusedZero arg = true) : f.relaid arg = arg := by
  cases f with
  | n => exact (eq_of_beq h).symm
  | b => exact argB_lane arg h
  | hl => exact argHL_lane arg h
  | t => exact argT_lane arg h
  | v => exact argV_valueField arg h
  | d => exact argD_lane arg

/-- What the command of an opcode encodes to: that opcode, and the operands read from the argument. -/
theorem commandOf_inv {opc : BitVec 8} {arg : Word40} {f : Form} {i : Instr} (h : commandOf opc arg = some (f, i)) :
    i.opcode = opc ∧ i.argument = f.relaid arg := by
  unfold commandOf at h
  split at h <;> cases h <;> exact ⟨rfl, rfl⟩

/-! ## Decoder and encoder -/

/-- Settles O1: the argument of a command is legal for its form, and its operands are read back from it. -/
theorem decodeOfEncodeIsTheCommand : Obligations.DecodeOfEncodeIsTheCommand := by
  unfold Obligations.DecodeOfEncodeIsTheCommand
  intro i
  rw [decode_command_iff, opcField_encode, argField_encode]
  exact ⟨i.form, commandOf_argument i, unusedZero_argument i⟩

/-- Settles O2: both fields of the word are those of the command's encoding. -/
theorem decodedWordIsTheEncodedOne : Obligations.DecodedWordIsTheEncodedOne := by
  unfold Obligations.DecodedWordIsTheEncodedOne
  intro w i h
  obtain ⟨f, hcmd, hzero⟩ := decode_command_iff.mp h
  obtain ⟨hopc, harg⟩ := commandOf_inv hcmd
  rw [encode, hopc, harg, Form.relaid_eq hzero, word_eq_fields]

/-- Settles O4: each word is the encoding of its command. -/
theorem sampleWordsDecode : Obligations.SampleWordsDecode := by
  unfold Obligations.SampleWordsDecode
  have hrt := decodeOfEncodeIsTheCommand
  exact ⟨hrt (.rdlen 2), hrt (.nibdec 10 5), hrt (.unpack 0x01 0x11 0x51 0x2C 0x78), hrt (.txint 512),
    hrt (.rxvalhdr 5 0x7A 2)⟩

/-! ## The opcode table (R42) -/

/-- The bits of `arg` that a form does not use (R41). -/
def Form.unusedMask (f : Form) : Word40 :=
  match f with
  | .n => BitVec.allOnes 40
  | .b => BitVec.allOnes 32 ++ 0#8
  | .hl => BitVec.allOnes 24 ++ 0#16
  | .t => BitVec.allOnes 16 ++ 0#24
  | .v => BitVec.allOnes 8 ++ 0#32
  | .d => 0#40

/-- Under a mask of the high bits nothing is left exactly when the high field is 0. -/
theorem and_highMask_eq_zero_iff {high low : Nat} (x : BitVec (high + low)) :
    x &&& (BitVec.allOnes high ++ 0#low) = 0#(high + low) ↔ x.extractLsb' low high = 0#high := by
  have hsplit : x.extractLsb' low high ++ x.extractLsb' 0 low = x := by
    rw [BitVec.extractLsb'_append_extractLsb'_eq_extractLsb' (Nat.zero_add low).symm, BitVec.extractLsb'_eq_self]
  have hmask : x &&& (BitVec.allOnes high ++ 0#low) = x.extractLsb' low high ++ 0#low := by
    conv_lhs => rw [← hsplit]
    rw [BitVec.and_append, BitVec.and_allOnes, BitVec.and_zero]
  rw [hmask, ← BitVec.zero_append_zero, BitVec.append_left_inj]

/-- The bits under the mask of a form are 0 exactly when the form finds its unused bits 0. -/
theorem Form.and_unusedMask_eq_zero_iff (f : Form) (arg : Word40) :
    arg &&& f.unusedMask = 0#40 ↔ f.unusedZero arg = true := by
  cases f with
  | n => rw [Form.unusedMask, BitVec.and_allOnes, Form.unusedZero, beq_iff_eq]
  | b => rw [Form.unusedZero, beq_iff_eq]; exact and_highMask_eq_zero_iff (high := 32) (low := 8) arg
  | hl => rw [Form.unusedZero, beq_iff_eq]; exact and_highMask_eq_zero_iff (high := 24) (low := 16) arg
  | t => rw [Form.unusedZero, beq_iff_eq]; exact and_highMask_eq_zero_iff (high := 16) (low := 24) arg
  | v => rw [Form.unusedZero, beq_iff_eq]; exact and_highMask_eq_zero_iff (high := 8) (low := 32) arg
  | d => simp only [Form.unusedMask, BitVec.and_zero, unusedZero_d]

/-- The row of the opcode table that a command's opcode, form and name make. -/
def Instr.row (i : Instr) : OpcodeRow := ⟨i.mnemonic, i.opcode ++ 0#40, BitVec.allOnes 8 ++ i.form.unusedMask⟩

/-- The table as printed is the list of the commands' rows, in which operands play no part. -/
theorem opcodeTable_eq_rows : opcodeTable =
    [Instr.reset, .clrerr, .rdstat, .rdlen 0, .nibenc 0, .nibdec 0 0, .pack 0, .unpack 0 0 0 0 0, .txbegin 0, .txbyte 0,
      .txpath 0, .txint 0, .txnib 0, .txck, .txend, .txsend, .rdtx 0, .rxrecv, .rxvalhdr 0 0 0, .rxack 0 0 0, .rxchk,
      .rxdecode, .rdrx 0, .rdd 0].map Instr.row := by
  simp [opcodeTable, Instr.row, Instr.mnemonic, Instr.opcode, Instr.form, Form.unusedMask]

/-- The table has the row of every command, and no other row. -/
theorem mem_opcodeTable_iff (r : OpcodeRow) : r ∈ opcodeTable ↔ ∃ i : Instr, i.row = r := by
  rw [opcodeTable_eq_rows]
  constructor
  · intro h
    obtain ⟨i, _, hi⟩ := List.mem_map.mp h
    exact ⟨i, hi⟩
  · rintro ⟨i, rfl⟩
    cases i <;> simp only [List.map, Instr.row, Instr.mnemonic, Instr.opcode, Instr.form, List.mem_cons, true_or,
      or_true]

/-- A word is of a command's row exactly when it has the opcode and the bits that the form does not use are 0. -/
theorem matches_row_iff (w : CommandWord) (j : Instr) :
    w &&& j.row.mask = j.row.pattern ↔ opcField w = j.opcode ∧ j.form.unusedZero (argField w) = true := by
  have hand : w &&& j.row.mask = opcField w ++ (argField w &&& j.form.unusedMask) := by
    conv_lhs => rw [← word_eq_fields w]
    rw [Instr.row, BitVec.and_append, BitVec.and_allOnes]
  rw [hand, ← Form.and_unusedMask_eq_zero_iff]
  constructor
  · intro h
    exact ⟨by simpa [Instr.row] using congrArg opcField h, by simpa [Instr.row] using congrArg argField h⟩
  · rintro ⟨hopc, harg⟩
    rw [hopc, harg, Instr.row]

/-- A word of a command's row decodes to a command of that name. -/
theorem decode_of_matches_row {w : CommandWord} {j : Instr} (h : w &&& j.row.mask = j.row.pattern) :
    ∃ i, decode w = .command i ∧ i.mnemonic = j.mnemonic := by
  obtain ⟨hopc, hzero⟩ := (matches_row_iff w j).mp h
  obtain ⟨i, hcmd, hname⟩ := commandOf_opcode j (argField w)
  exact ⟨i, decode_command_iff.mpr ⟨j.form, hopc ▸ hcmd, hzero⟩, hname⟩

/-- The word of a command is of the command's row. -/
theorem encode_matches_row (i : Instr) : encode i &&& i.row.mask = i.row.pattern := by
  rw [matches_row_iff, opcField_encode, argField_encode]
  exact ⟨rfl, unusedZero_argument i⟩

/-- Settles O3: the rows are those of the commands, and a word decodes exactly when it is of one of them. -/
theorem legalWordsAreTheTableRows : Obligations.LegalWordsAreTheTableRows := by
  unfold Obligations.LegalWordsAreTheTableRows
  intro w
  constructor
  · intro hnone
    cases hdec : decode w with
    | illegal why => exact ⟨why, rfl⟩
    | command i =>
      have hmatch := encode_matches_row i
      rw [decodedWordIsTheEncodedOne w i hdec] at hmatch
      have hno := List.find?_eq_none.mp hnone i.row ((mem_opcodeTable_iff _).mpr ⟨i, rfl⟩)
      exact absurd (beq_iff_eq.mpr hmatch) hno
  · intro r hsome
    obtain ⟨j, rfl⟩ := (mem_opcodeTable_iff r).mp (List.mem_of_find?_eq_some hsome)
    have hmatch := List.find?_some hsome
    exact decode_of_matches_row (beq_iff_eq.mp hmatch)

end Sys2Proof

namespace Sys2Proof.Machine

/-! ## The step takes the word presented (R40) -/

/-- Settles O6: the word stands first and no RXRECV waits, so it is what is pending. -/
theorem stepRunsTheDecodedCommand : Obligations.StepRunsTheDecodedCommand := by
  unfold Obligations.StepRunsTheDecodedCommand
  intro s w rest hwait hin
  have hpending : pending s = .command w { s with inputs := rest } := by simp [pending, hin, hwait]
  have hstep : step s = issue w { s with inputs := rest } := by rw [step, hpending]
  constructor
  · intro i hdec
    rw [hstep, issue, hdec]
  · intro why hdec
    rw [hstep, issue, hdec, endRaise_eq]

end Sys2Proof.Machine
end

section
/-! The messages on the wire: what is handed to the channel and what looped back checks (30_encoding.md R46,
42_rx_validator.md R82), what a Download response decodes to (R55, R83), and operands outside their domain (R43). -/

namespace Sys2Proof.Machine

/-! ## Messages handed to the channel (R46) -/

/-- What the channel answers to a receive is not recorded as sent. -/
theorem sent_mem_of_receiveAnswer {a : RecvAnswer} {s : State} {m : Bytes}
    (h : Event.sent m ∈ (receiveAnswer a s).trace) : Event.sent m ∈ s.trace := by
  rcases receiveAnswer_cases a s with ⟨ha, _⟩ | ⟨_, ha⟩ | ⟨_, _, ha⟩ | ⟨_, _, ⟨_, ha⟩ | ⟨_, ha⟩⟩ <;>
    simpa [ha] using h

/-- A command hands over no message but the one that stands sealed in `TXBUF` (43_channel.md R88). -/
theorem exec_sent_mem {i : Instr} {s t : State} {m : Bytes} (h : exec i s = .next t) (hm : Event.sent m ∈ t.trace) :
    Event.sent m ∈ s.trace ∨ s.txst = .sealed ∧ m = s.txbuf := by
  cases exec_effect i s t h with
  | sent _ hst ht =>
    subst t
    have hcases : Event.sent m ∈ s.trace ∨ m = s.txbuf := by simpa using hm
    exact hcases.imp_right (⟨hst, ·⟩)
  | answered _ a rest _ ht => subst t; exact .inl (sent_mem_of_receiveAnswer hm :)
  | _ => subst t; exact .inl (by simpa using hm)

theorem exec_sentOk {i : Instr} {s t : State} (h : exec i s = .next t) (hseal : SealedOk s) (hs : SentOk s) :
    SentOk t := by
  intro m hm
  rw [(exec_params_inputs h).1]
  rcases exec_sent_mem h hm with hold | ⟨hst, rfl⟩
  · exact hs m hold
  · obtain ⟨hok, _⟩ := hseal hst
    exact hok

/-- Settles O43, by the kinds of step; a message that a command hands over is a sealed one, which the invariant covers. -/
theorem everySentMessageIsWellFormed : Obligations.EverySentMessageIsWellFormed := by
  unfold Obligations.EverySentMessageIsWellFormed
  intro s t hinv hs h
  cases step_effect h with
  | idle ht => exact ht ▸ hs
  | resetPin rest ht => subst t; exact hs
  | illegal rest ht => subst t; exact hs
  | command i rest hexec => exact exec_sentOk hexec (inv_with_inputs hinv rest).sealedOk hs

/-! ## A message looped back (R82) -/

/-- Clauses (b), (c) and (d) of the message invariant are what `FRAMEOK` asks for. -/
theorem MessageOk.frameOk {p : Params} {m : Bytes} (h : MessageOk p m) : frameOk m = true := by
  obtain ⟨hlen, _, hfirst, hlast, hsafe, _⟩ := h
  have hall : (slice m 1 (m.length - 2)).all sevenBitSafe = true := by
    rw [List.all_eq_true]
    intro b hb
    obtain ⟨k, hk⟩ := List.mem_iff_getElem?.mp hb
    rw [slice, List.getElem?_take] at hk
    split at hk
    · rw [List.getElem?_drop] at hk
      simpa [sevenBitSafe] using hsafe (1 + k) (by omega) (by omega) b hk
    · cases hk
  simp [Machine.frameOk, hlen, hfirst, hlast, hall]

/-- Clauses (a) and (d) of the message invariant are what `SUMOK` asks for. -/
theorem MessageOk.sumOk {p : Params} {m : Bytes} (h : MessageOk p m) : sumOk m = true := by
  obtain ⟨hlen, hsum, _⟩ := h
  simp [Machine.sumOk, Config.ckStart, hlen, hsum]

/-- Settles O58: a sealed message satisfies the message invariant, which is what both bits ask for. -/
theorem loopedBackMessageChecks : Obligations.LoopedBackMessageChecks := by
  unfold Obligations.LoopedBackMessageChecks
  intro u s hinv hst hvalid hbuf
  obtain ⟨hok, _⟩ := hinv.sealedOk hst
  rw [← hbuf] at hok
  rw [exec, execRxchk, if_neg (by simp [hvalid]), hok.frameOk, hok.sumOk]
  rfl

/-! ## A Download response (R55) -/

theorem nibbleDecode_nibbles (b : Byte) : nibbleDecode (nibbleHi b) (nibbleLo b) = some b := by
  obtain ⟨hhi, hlo⟩ := nibbles_le b
  have hlt := b.isLt
  have hsum : 16 * (nibbleHi b).toNat + (nibbleLo b).toNat = b.toNat := by
    rw [nibbleHi_eq, nibbleLo_eq, toNat_ofNat_byte (by omega), toNat_ofNat_byte (by omega)]
    omega
  rw [nibbleDecode_of_le _ _ hhi hlo, hsum, BitVec.ofNat_toNat, BitVec.setWidth_eq]

/-- Decoding the nibbles of a file gives the file (R62, R63, R83). -/
theorem nibbleDecodeAll_nibbleEncodeAll (file : Bytes) : nibbleDecodeAll (nibbleEncodeAll file) = some file := by
  induction file with
  | nil => rfl
  | cons b rest ih => exact (nibbleDecodeAll_cons _ _ _ _).mpr ⟨b, rest, nibbleDecode_nibbles b, ih, rfl⟩

@[simp] theorem length_nibbleEncodeAll (file : Bytes) : (nibbleEncodeAll file).length = 2 * file.length := by
  induction file with
  | nil => rfl
  | cons b rest ih =>
    have hcons : nibbleEncodeAll (b :: rest) = nibbleHi b :: nibbleLo b :: nibbleEncodeAll rest := rfl
    simp only [hcons, List.length_cons, ih]
    omega

@[simp] theorem length_header (p : Params) (id cat op : Byte) : (header p id cat op).length = 9 := rfl

@[simp] theorem length_downloadResponse (p : Params) (id : Byte) (file : Bytes) (cs : Byte) :
    (downloadResponse p id file cs).length = 11 + 2 * file.length := by
  simp only [downloadResponse, List.length_append, length_header, length_nibbleEncodeAll, List.length_cons,
    List.length_nil]
  omega

/-- A Download response begins with the header of its id, category and opcode (R52, R55). -/
theorem downloadResponse_startsWith (p : Params) (id : Byte) (file : Bytes) (cs : Byte) :
    startsWith (downloadResponse p id file cs) (header p id (byteOf7 p.catFile) Config.opDownload) = true := by
  rw [startsWith_iff, downloadResponse, List.append_assoc]
  exact List.take_left

/-- The payload region of a Download response is the file's nibbles, whatever the checksum byte (R55, R86). -/
theorem payload_downloadResponse (p : Params) (id : Byte) (file : Bytes) (cs : Byte) :
    payload (downloadResponse p id file cs) = nibbleEncodeAll file := by
  have hdrop : (downloadResponse p id file cs).drop 9 = nibbleEncodeAll file ++ [cs, Config.eox] := by
    rw [downloadResponse, List.append_assoc]
    exact List.drop_left' (length_header ..)
  rw [payload, slice, hdrop, length_downloadResponse]
  exact List.take_left' (by rw [length_nibbleEncodeAll]; omega)

/-- RXVALHDR of a message that begins with the expected header (R80). -/
theorem execRxvalhdr_of_startsWith {id cat op : Byte} {s : State} (hvalid : s.rxvalid = true)
    (hdom : expectedInDomain id cat op = true) (hstart : startsWith s.rxbuf (header s.params id cat op) = true) :
    execRxvalhdr id cat op s = .next (ret 1 s) := by
  simp [execRxvalhdr, hvalid, hdom, hstart]

/-- RXDECODE of a message whose payload decodes to bytes that fit (R83). -/
theorem execRxdecode_of_decodes {bs : Bytes} {s : State} (hvalid : s.rxvalid = true) (h11 : 11 ≤ s.rxbuf.length)
    (hdec : nibbleDecodeAll (payload s.rxbuf) = some bs) (hfits : Fits s.params.dcap bs.length) :
    execRxdecode s = .next (retLength bs.length { s with dbuf := bs, dvalid := true }) := by
  have heven : (payload s.rxbuf).length % 2 ≠ 1 := by
    rw [(nibbleDecodeAll_pairs hdec).1]
    omega
  have hcap := (withinCapacity_iff_fits _ _).mpr hfits
  simp [execRxdecode, hvalid, Nat.not_lt.mpr h11, heven, hdec, hcap]

/-- Settles O57: the response begins with the expected header, and its payload region is the file's nibbles. -/
theorem downloadedFileRoundTrips : Obligations.DownloadedFileRoundTrips := by
  unfold Obligations.DownloadedFileRoundTrips
  intro s id cs file hvalid hbuf hid hfits
  constructor
  · have hdom : expectedInDomain id (byteOf7 s.params.catFile) 2 = true :=
      (expectedInDomain_iff ..).mpr ⟨hid, byteOf7_le _, by decide⟩
    exact execRxvalhdr_of_startsWith hvalid hdom (hbuf ▸ downloadResponse_startsWith s.params id file cs)
  · have hdec : nibbleDecodeAll (payload s.rxbuf) = some file := by
      rw [hbuf, payload_downloadResponse, nibbleDecodeAll_nibbleEncodeAll]
    exact execRxdecode_of_decodes hvalid (by rw [hbuf, length_downloadResponse]; omega) hdec hfits

/-! ## Operands outside their domain (R43) -/

theorem errKind_code_ne_zero (e : ErrKind) : e.code ≠ 0 := by
  cases e <;> decide

/-- Code 7 is that of `IllegalCommand` alone (60_exceptions.md R120). -/
theorem errKind_code_ne_seven {e : ErrKind} (he : e ≠ .illegalCommand) : e.code ≠ 7 := by
  cases e with
  | illegalCommand => exact absurd rfl he
  | _ => decide

/-- The outcome is an error that is not `IllegalCommand`, with nothing else written. -/
def RaisesLegally (s : State) (o : Host.Outcome State Fault Refusal) : Prop :=
  ∃ e, e ≠ .illegalCommand ∧ o = .next (raise e s)

theorem raisesLegally_endRaise {e : ErrKind} (s : State) (he : e ≠ .illegalCommand) :
    RaisesLegally s (endRaise e s) := ⟨e, he, rfl⟩

/-- A check of the state that comes before the check of the operands raises an error of its own (60_exceptions.md R129). -/
theorem raisesLegally_ite {c : Prop} [Decidable c] {s : State} {o o' : Host.Outcome State Fault Refusal}
    (h : RaisesLegally s o) (h' : RaisesLegally s o') : RaisesLegally s (if c then o else o') := by
  split
  · exact h
  · exact h'

/-- A command whose operands are outside their domain raises an error in every state (R43, R122, R130). -/
theorem exec_raisesLegally {i : Instr} (s : State) (h : i.inDomain = false) : RaisesLegally s (exec i s) := by
  have hseq : RaisesLegally s (endRaise .sequenceError s) := raisesLegally_endRaise s (by decide)
  have hrange : RaisesLegally s (endRaise .rangeError s) := raisesLegally_endRaise s (by decide)
  have hformat : RaisesLegally s (endRaise .formatError s) := raisesLegally_endRaise s (by decide)
  cases i with
  | rdlen sel =>
    have hsel : 2 < sel.toNat := by simpa [Instr.inDomain] using h
    rw [exec, execRdlen]
    split
    case h_4 => exact hrange
    all_goals omega
  | nibdec hi lo =>
    have hdec : nibbleDecode hi lo = none := if_neg (Bool.eq_false_iff.mp h)
    rw [exec, execNibdec, hdec]
    exact hrange
  | unpack d4 d3 d2 d1 d0 =>
    have hdec : unpackInteger d4 d3 d2 d1 d0 = none := if_neg (Bool.eq_false_iff.mp h)
    rw [exec, execUnpack, hdec]
    exact hrange
  | txbegin id =>
    rw [exec, execTxbegin, if_neg (c := sevenBitSafe id = true) (Bool.eq_false_iff.mp h)]
    exact hrange
  | txbyte b =>
    rw [exec, execTxbyte, if_neg (c := sevenBitSafe b = true) (Bool.eq_false_iff.mp h)]
    exact raisesLegally_ite hseq hrange
  | txpath c =>
    rw [exec, execTxpath, if_neg (c := pathChar c = true) (Bool.eq_false_iff.mp h)]
    exact raisesLegally_ite hseq hformat
  | rxvalhdr id cat op =>
    have hdom : expectedInDomain id cat op = false := h
    rw [exec, execRxvalhdr, hdom]
    exact raisesLegally_ite hseq hrange
  | rxack id cat op =>
    have hdom : expectedInDomain id cat op = false := h
    rw [exec, execRxack, hdom]
    exact raisesLegally_ite hseq hrange
  | _ => cases h

/-- Settles O53: the word decodes as every encoding does, and the error raised writes `RC`, `DOUT` and `ERR` only. -/
theorem operandsOutsideTheirDomainRaise : Obligations.OperandsOutsideTheirDomainRaise := by
  unfold Obligations.OperandsOutsideTheirDomainRaise
  intro i s t hdom h
  obtain ⟨e, he, hraise⟩ := exec_raisesLegally s hdom
  rw [hraise] at h
  cases h
  exact ⟨decodeOfEncodeIsTheCommand i, errKind_code_ne_zero e, errKind_code_ne_seven he, rfl⟩

end Sys2Proof.Machine
end

section
/-! The pure codec functions: the sum and its completion (40_codec_functions.md R60, R61), nibble coding (R62, R63) and
packed integers (R66, R67), each with its inverse. -/

namespace Sys2Proof.Machine

/-! ## The sum and its completion (R60, R61) -/

theorem sum7_lt (s : Bytes) : sum7 s < 128 := Nat.mod_lt _ (by decide)

/-- `sum7` adds over append (R60). -/
theorem sum7_append_sum7 (s t : Bytes) : sum7 (s ++ t) = (sum7 s + sum7 t) % 128 := by
  rw [sum7_append, sum7, sum7, Config.modulus, Nat.add_mod_mod]

/-- One byte more (R60). -/
theorem sum7_concat (s : Bytes) (b : Byte) : sum7 (s ++ [b]) = (sum7 s + b.toNat) % 128 := by
  rw [sum7_append, sumBytes_singleton]

/-- Settles O16: `sumBytes` adds over append, and 128 is the modulus. -/
theorem sumSevenAddsOverAppend : Obligations.SumSevenAddsOverAppend := by
  unfold Obligations.SumSevenAddsOverAppend
  exact ⟨fun _ => rfl, rfl, fun s t => ⟨sum7_append_sum7 s t, sum7_lt s⟩, sum7_concat⟩

theorem toNat_checksum (s : Bytes) : (checksum s).toNat = (128 - sum7 s) % 128 := toNat_checksumOfSum (sum7 s)

/-- A 7-bit-safe byte that completes the sum is the checksum (R61). -/
theorem eq_checksum_of_completes {s : Bytes} {v : Byte} (hv : v.toNat < 128) (h : sum7 (s ++ [v]) = 0) :
    v = checksum s := by
  apply BitVec.eq_of_toNat_eq
  have hlt := sum7_lt s
  rw [sum7_concat] at h
  rw [toNat_checksum]
  omega

/-- The checksum depends on the sum alone (R61). -/
theorem checksum_congr {s t : Bytes} (h : sum7 s = sum7 t) : checksum s = checksum t := by
  rw [checksum, h, checksum]

/-- Bytes whose sum is 0 leave the sum before them as it is (R60). -/
theorem sum7_append_of_zero (s : Bytes) {t : Bytes} (h : sum7 t = 0) : sum7 (s ++ t) = sum7 s := by
  rw [sum7_append_sum7, h, Nat.add_zero, Nat.mod_eq_of_lt (sum7_lt s)]

/-- Settles O17: the value is that of `checksumOfSum`, and two completions below 128 are congruent modulo 128. -/
theorem checksumIsTheUniqueCompletion : Obligations.ChecksumIsTheUniqueCompletion := by
  unfold Obligations.ChecksumIsTheUniqueCompletion
  intro s
  refine ⟨toNat_checksum s, ?_, sum7_append_checksum s, rfl, fun v => eq_checksum_of_completes, ?_, ?_⟩
  · rw [toNat_checksum]
    exact Nat.mod_lt _ (by decide)
  · exact fun h => checksum_congr (t := []) h
  · exact fun t h => checksum_congr (sum7_append_of_zero s h)

/-! ## Nibble coding (R62, R63) -/

theorem nibbleEncode_eq (b : Byte) :
    nibbleEncode b = [BitVec.ofNat 8 (b.toNat / 16), BitVec.ofNat 8 (b.toNat % 16)] := by
  rw [nibbleEncode, nibbleHi_eq, nibbleLo_eq]

/-- Encoding the byte that two nibbles make gives the nibbles back (R63). -/
theorem nibbleEncode_of_le {hi lo : Byte} (hhi : hi.toNat ≤ 15) (hlo : lo.toNat ≤ 15) :
    nibbleEncode (BitVec.ofNat 8 (16 * hi.toNat + lo.toNat)) = [hi, lo] := by
  have hdiv : (16 * hi.toNat + lo.toNat) / 16 = hi.toNat := by omega
  have hmod : (16 * hi.toNat + lo.toNat) % 16 = lo.toNat := by omega
  rw [nibbleEncode_eq, toNat_ofNat_byte (by omega), hdiv, hmod]
  simp only [BitVec.ofNat_toNat, BitVec.setWidth_eq]

/-- Decoding a pair and encoding a byte are inverse relations (R63). -/
theorem nibbleDecode_eq_some_iff {hi lo b : Byte} : nibbleDecode hi lo = some b ↔ nibbleEncode b = [hi, lo] := by
  constructor
  · intro h
    by_cases hdom : hi.toNat ≤ 15 ∧ lo.toNat ≤ 15
    · obtain ⟨hhi, hlo⟩ := hdom
      rw [nibbleDecode_of_le hi lo hhi hlo] at h
      cases h
      exact nibbleEncode_of_le hhi hlo
    · rw [nibbleDecode_of_lt hi lo (by omega)] at h
      cases h
  · intro h
    cases h
    exact nibbleDecode_nibbles b

/-- Encoding what a payload decodes to gives the payload back (R63, R83). -/
theorem nibbleEncodeAll_of_nibbleDecodeAll {s t : Bytes} (h : nibbleDecodeAll s = some t) : nibbleEncodeAll t = s := by
  induction t generalizing s with
  | nil =>
    obtain ⟨hlen, _⟩ := nibbleDecodeAll_pairs h
    exact (List.eq_nil_of_length_eq_zero hlen).symm
  | cons b bs ih =>
    match s, h with
    | hi :: lo :: rest, h =>
      obtain ⟨_, _, hb, hrest, hcons⟩ := (nibbleDecodeAll_cons hi lo rest (b :: bs)).mp h
      cases hcons
      rw [nibbleEncodeAll, List.flatMap_cons, nibbleDecode_eq_some_iff.mp hb, ← nibbleEncodeAll, ih hrest]
      rfl

/-- Settles O18: decoding a pair and encoding a byte are inverse, and payloads are coded byte by byte. -/
theorem nibbleCodingRoundTrips : Obligations.NibbleCodingRoundTrips := by
  unfold Obligations.NibbleCodingRoundTrips
  refine ⟨nibbleEncode_eq, ?_, nibbleDecode_of_lt, ?_, fun s t => nibbleEncodeAll_of_nibbleDecodeAll⟩
  · exact fun hi lo hhi hlo => ⟨nibbleDecode_of_le hi lo hhi hlo, nibbleEncode_of_le hhi hlo⟩
  · exact fun s => ⟨nibbleDecodeAll_nibbleEncodeAll s, length_nibbleEncodeAll s⟩

/-! ## Packed integers (R66, R67) -/

/-- The value of five base-128 digits (R67). -/
def digitsValue (d4 d3 d2 d1 d0 : Byte) : Nat :=
  d4.toNat * 2 ^ 28 + d3.toNat * 2 ^ 21 + d2.toNat * 2 ^ 14 + d1.toNat * 2 ^ 7 + d0.toNat

/-- In its domain `unpackInteger` is the value of the digits (R67). -/
theorem unpackInteger_of_le {d4 d3 d2 d1 d0 : Byte} (h4 : d4.toNat ≤ 15) (h3 : d3.toNat ≤ 127) (h2 : d2.toNat ≤ 127)
    (h1 : d1.toNat ≤ 127) (h0 : d0.toNat ≤ 127) :
    unpackInteger d4 d3 d2 d1 d0 = some (digitsValue d4 d3 d2 d1 d0) :=
  if_pos ((digitsInDomain_iff d4 d3 d2 d1 d0).mpr ⟨h4, h3, h2, h1, h0⟩)

/-- Outside its domain `unpackInteger` has no value (R67). -/
theorem unpackInteger_of_lt {d4 d3 d2 d1 d0 : Byte}
    (h : 15 < d4.toNat ∨ 127 < d3.toNat ∨ 127 < d2.toNat ∨ 127 < d1.toNat ∨ 127 < d0.toNat) :
    unpackInteger d4 d3 d2 d1 d0 = none := by
  refine if_neg fun hdom => ?_
  rw [digitsInDomain_iff] at hdom
  omega

theorem unpackInteger_eq_some_iff {d4 d3 d2 d1 d0 : Byte} {n : Nat} : unpackInteger d4 d3 d2 d1 d0 = some n ↔
    digitsInDomain d4 d3 d2 d1 d0 = true ∧ digitsValue d4 d3 d2 d1 d0 = n := by
  rw [unpackInteger, Option.ite_none_right_eq_some, Option.some_inj, digitsValue]

/-- A lower digit of a packed integer is a 7-bit value (R66). -/
theorem toNat_ofNat_digit (n : Nat) : (BitVec.ofNat 8 (n % 128)).toNat = n % 128 := toNat_ofNat_byte (by omega)

/-- The top digit of a packed integer is a 4-bit value (R66). -/
theorem toNat_ofNat_topDigit (v : BitVec 32) : (BitVec.ofNat 8 (v.toNat / 2 ^ 28)).toNat = v.toNat / 2 ^ 28 :=
  toNat_ofNat_byte (by omega)

/-- The digits of `packInteger` are in the domain of `unpackInteger`, which gives the integer back (R67). -/
theorem packInteger_digits (v : BitVec 32) : ∃ d4 d3 d2 d1 d0 : Byte, packInteger v = [d4, d3, d2, d1, d0] ∧
    d4.toNat ≤ 15 ∧ d3.toNat ≤ 127 ∧ d2.toNat ≤ 127 ∧ d1.toNat ≤ 127 ∧ d0.toNat ≤ 127 ∧
    digitsValue d4 d3 d2 d1 d0 = v.toNat := by
  refine ⟨_, _, _, _, _, packInteger_eq v, ?_⟩
  have hv := v.isLt
  simp only [digitsValue, toNat_ofNat_digit, toNat_ofNat_topDigit]
  omega

/-- Packing the value of digits in their domain gives the digits back (R67). -/
theorem packInteger_digitsValue {d4 d3 d2 d1 d0 : Byte} (h : digitsInDomain d4 d3 d2 d1 d0 = true) :
    digitsValue d4 d3 d2 d1 d0 < 2 ^ 32 ∧
      packInteger (BitVec.ofNat 32 (digitsValue d4 d3 d2 d1 d0)) = [d4, d3, d2, d1, d0] := by
  obtain ⟨h4, h3, h2, h1, h0⟩ := (digitsInDomain_iff d4 d3 d2 d1 d0).mp h
  have hlt : digitsValue d4 d3 d2 d1 d0 < 2 ^ 32 := by rw [digitsValue]; omega
  have e4 : digitsValue d4 d3 d2 d1 d0 / 2 ^ 28 = d4.toNat := by rw [digitsValue]; omega
  have e3 : digitsValue d4 d3 d2 d1 d0 / 2 ^ 21 % 128 = d3.toNat := by rw [digitsValue]; omega
  have e2 : digitsValue d4 d3 d2 d1 d0 / 2 ^ 14 % 128 = d2.toNat := by rw [digitsValue]; omega
  have e1 : digitsValue d4 d3 d2 d1 d0 / 2 ^ 7 % 128 = d1.toNat := by rw [digitsValue]; omega
  have e0 : digitsValue d4 d3 d2 d1 d0 % 128 = d0.toNat := by rw [digitsValue]; omega
  refine ⟨hlt, ?_⟩
  rw [packInteger_eq, BitVec.toNat_ofNat, Nat.mod_eq_of_lt hlt, e4, e3, e2, e1, e0]
  simp only [BitVec.ofNat_toNat, BitVec.setWidth_eq]

/-- Settles O19: the digits by division make up the integer, and division of a value of digits finds the digits. -/
theorem packedIntegerRoundTrips : Obligations.PackedIntegerRoundTrips := by
  unfold Obligations.PackedIntegerRoundTrips
  refine ⟨packInteger_eq, fun d4 d3 d2 d1 d0 => ⟨unpackInteger_of_le, unpackInteger_of_lt⟩, ?_, ?_⟩
  · intro v
    obtain ⟨d4, d3, d2, d1, d0, hpack, h4, h3, h2, h1, h0, hval⟩ := packInteger_digits v
    exact ⟨d4, d3, d2, d1, d0, hpack, h4, h3, h2, h1, h0, hval ▸ unpackInteger_of_le h4 h3 h2 h1 h0⟩
  · intro d4 d3 d2 d1 d0 n h
    obtain ⟨hdom, rfl⟩ := unpackInteger_eq_some_iff.mp h
    exact packInteger_digitsValue hdom

end Sys2Proof.Machine
end

section
/-! The codec commands: the word of each and its next state (40_codec_functions.md R64, R65, R68, R69). -/

namespace Sys2Proof.Machine

/-- Form D uses every bit of the argument, so every word of its opcode is legal (30_encoding.md R41, R43). -/
theorem issue_form_d (w : CommandWord) (s : State) (opc : BitVec 8) (i : Instr) (ho : w.extractLsb' 40 8 = opc)
    (hc : commandOf opc (argField w) = some (.d, i)) : issue w s = exec i s := by
  rw [issue_of_commandOf w s opc .d i ho hc, if_pos (unusedZero_d _)]

/-! ## NIBENC and NIBDEC (R64, R65) -/

/-- The pair of nibbles in `DOUT`, the high one in lane 1 (R64). -/
theorem lanes_nibbleEncode (b : Byte) :
    lanes (nibbleEncode b) = BitVec.ofNat 40 (b.toNat / 16 * 256 + b.toNat % 16) := by
  have hlt := b.isLt
  rw [lanes, nibbleEncode_eq]
  simp only [lanesNat, List.foldl_cons, List.foldl_nil, Nat.zero_mul, Nat.zero_add,
    toNat_ofNat_byte (n := b.toNat / 16) (by omega), toNat_ofNat_byte (n := b.toNat % 16) (by omega)]

/-- Settles O20: a form B word, and the lanes of the two nibbles. -/
theorem nibencReturnsThePair : Obligations.NibencReturnsThePair := by
  unfold Obligations.NibencReturnsThePair
  intro s
  constructor
  · intro w ho
    rw [issue_form_b w s _ _ ho rfl, lane_of_word w 0 (by decide)]
  · intro b
    rw [exec, execNibenc, lanes_nibbleEncode, endOk_eq, ret]

/-- A byte as a value of `DOUT` is its number (10_state.md R16). -/
theorem byteValue_ofNat {n : Nat} (h : n < 256) : byteValue (BitVec.ofNat 8 n) = BitVec.ofNat 40 n := by
  rw [byteValue, BitVec.setWidth_ofNat_of_le_of_lt (by decide) h]

/-- Settles O21: a form HL word, and `nibbleDecode` inside and outside its domain. -/
theorem nibdecReturnsTheByte : Obligations.NibdecReturnsTheByte := by
  unfold Obligations.NibdecReturnsTheByte
  intro s
  refine ⟨fun w ho => ?_, fun hi lo => ⟨fun hhi hlo => ?_, fun h => ?_⟩⟩
  · rw [issue_form_hl w s _ _ ho rfl, lane_of_word w 1 (by decide), lane_of_word w 0 (by decide)]
  · rw [exec, execNibdec, nibbleDecode_of_le hi lo hhi hlo]
    simp only [endOk_eq, byteValue_ofNat (n := 16 * hi.toNat + lo.toNat) (by omega), ret]
  · rw [exec, execNibdec, nibbleDecode_of_lt hi lo h]
    rfl

/-! ## PACK and UNPACK (R68, R69) -/

/-- The five digits in `DOUT`, the most significant in lane 4 (R68). -/
theorem lanes_packInteger (v : BitVec 32) : lanes (packInteger v) = BitVec.ofNat 40
    (v.toNat / 2 ^ 28 * 2 ^ 32 + v.toNat / 2 ^ 21 % 128 * 2 ^ 24 + v.toNat / 2 ^ 14 % 128 * 2 ^ 16 +
      v.toNat / 2 ^ 7 % 128 * 2 ^ 8 + v.toNat % 128) := by
  rw [lanes, packInteger_eq]
  refine congrArg (BitVec.ofNat 40) ?_
  simp only [lanesNat, List.foldl_cons, List.foldl_nil, toNat_ofNat_digit, toNat_ofNat_topDigit]
  omega

/-- Settles O22: a form V word, and the lanes of the five digits. -/
theorem packReturnsTheDigits : Obligations.PackReturnsTheDigits := by
  unfold Obligations.PackReturnsTheDigits
  intro s
  constructor
  · intro w ho
    rw [issue_form_v w s _ _ ho rfl, valueField_of_word]
  · intro v
    rw [exec, execPack, lanes_packInteger, endOk_eq, ret]

/-- Settles O23: a form D word, and `unpackInteger` inside and outside its domain. -/
theorem unpackReturnsTheValue : Obligations.UnpackReturnsTheValue := by
  unfold Obligations.UnpackReturnsTheValue
  intro s
  refine ⟨fun w ho => ?_, fun d4 d3 d2 d1 d0 => ⟨fun h4 h3 h2 h1 h0 => ?_, fun h => ?_⟩⟩
  · rw [issue_form_d w s _ _ ho rfl, lane_of_word w 4 (by decide), lane_of_word w 3 (by decide),
      lane_of_word w 2 (by decide), lane_of_word w 1 (by decide), lane_of_word w 0 (by decide)]
  · rw [exec, execUnpack, unpackInteger_of_le h4 h3 h2 h1 h0]
    rfl
  · rw [exec, execUnpack, unpackInteger_of_lt h]
    rfl

end Sys2Proof.Machine
end

section
/-! The append step of the transmit builder and the commands that use it: the word of each and its next state
(41_tx_builder.md R70 to R74, R78, R79). -/

namespace Sys2Proof.Machine

/-! ## The checks of the builder (60_exceptions.md R129) -/

theorem sevenBitSafe_iff (b : Byte) : sevenBitSafe b = true ↔ b.toNat ≤ 127 := by
  rw [sevenBitSafe, decide_eq_true_iff]

theorem pathChar_iff (c : Byte) : pathChar c = true ↔ 1 ≤ c.toNat ∧ c.toNat ≤ 127 := by
  rw [pathChar, Bool.and_eq_true, decide_eq_true_iff, decide_eq_true_iff, Nat.one_le_iff_ne_zero]

/-- The commands that ask for a message under construction. -/
def needsOpen (i : Instr) : Bool :=
  isAppend i || i == .txck || i == .txend

/-- The state check comes first: outside `OPEN` each of these commands raises `SequenceError` (R127, R129). -/
theorem exec_of_not_open {i : Instr} {s : State} (hi : needsOpen i = true) (hp : s.txst ≠ .opened) :
    exec i s = .next (raise .sequenceError s) := by
  cases i with
  | txbyte _ => exact if_pos hp
  | txpath _ => exact if_pos hp
  | txint _ => exact if_pos hp
  | txnib _ => exact if_pos hp
  | txck => exact if_pos hp
  | txend => exact if_pos hp
  | _ => cases hi

/-- In `OPEN` the check of the state lets the command go on. -/
theorem ite_not_open {s : State} (hp : s.txst = .opened) (o o' : Host.Outcome State Fault Refusal) :
    (if s.txst ≠ .opened then o else o') = o' :=
  if_neg (not_not.mpr hp)

/-! ## The append step (R78, R79) -/

theorem appendAndReturn_of_not_fits {bs : Bytes} {s : State}
    (h : ¬ Fits s.params.txcap (s.txbuf.length + bs.length + 2)) :
    appendAndReturn bs s = .next (raise .overflow s) := by
  rcases appendAndReturn_cases bs s with ⟨_, heq⟩ | ⟨hf, _⟩
  · exact heq
  · exact absurd hf h

/-- An append that fits, with the sum of its bytes written as a number. -/
theorem appendAndReturn_of_fits {bs : Bytes} {s : State} {sum : Nat}
    (h : Fits s.params.txcap (s.txbuf.length + bs.length + 2)) (hsum : sumBytes bs = sum) :
    appendAndReturn bs s = .next (retLength (s.txbuf.length + bs.length) { s with
      txbuf := s.txbuf ++ bs, txacc := BitVec.ofNat 7 ((s.txacc.toNat + sum) % 128) }) := by
  subst hsum
  rcases appendAndReturn_cases bs s with ⟨hf, _⟩ | ⟨_, heq⟩
  · exact absurd h hf
  · exact heq

/-! ## TXBEGIN (R70) -/

/-- Settles O24: a form B word, and the two sides of the bound on the id. -/
theorem txbeginStartsAMessage : Obligations.TxbeginStartsAMessage := by
  unfold Obligations.TxbeginStartsAMessage
  intro s
  refine ⟨fun w ho => ?_, fun id => ⟨fun hid => ?_, fun hid => ?_⟩⟩
  · rw [issue_form_b w s _ _ ho rfl, lane_of_word w 0 (by decide)]
  · exact if_pos ((sevenBitSafe_iff id).mpr hid)
  · exact if_neg (by rw [sevenBitSafe_iff]; omega)

/-! ## TXBYTE and TXPATH (R71, R72) -/

theorem exec_txbyte_of_le {b : Byte} {s : State} (hp : s.txst = .opened) (hb : b.toNat ≤ 127) :
    exec (.txbyte b) s = appendAndReturn [b] s := by
  rw [exec, execTxbyte, ite_not_open hp, if_pos ((sevenBitSafe_iff b).mpr hb)]

theorem exec_txbyte_of_gt {b : Byte} {s : State} (hp : s.txst = .opened) (hb : 127 < b.toNat) :
    exec (.txbyte b) s = .next (raise .rangeError s) := by
  rw [exec, execTxbyte, ite_not_open hp, if_neg (by rw [sevenBitSafe_iff]; omega), endRaise_eq]

/-- Settles O25: a form B word, then the checks in the order of R129 and the append of one byte. -/
theorem txbyteAppendsOneByte : Obligations.TxbyteAppendsOneByte := by
  unfold Obligations.TxbyteAppendsOneByte
  intro s
  refine ⟨fun w ho => ?_, fun b =>
    ⟨exec_of_not_open rfl, exec_txbyte_of_gt, fun hp hb hfits => ?_, fun hp hb hfits => ?_⟩⟩
  · rw [issue_form_b w s _ _ ho rfl, lane_of_word w 0 (by decide)]
  · rw [exec_txbyte_of_le hp hb]
    exact appendAndReturn_of_not_fits hfits
  · rw [exec_txbyte_of_le hp hb]
    exact appendAndReturn_of_fits hfits (sumBytes_singleton b)

theorem exec_txpath_of_pathChar {c : Byte} {s : State} (hp : s.txst = .opened) (hlo : 1 ≤ c.toNat)
    (hhi : c.toNat ≤ 127) : exec (.txpath c) s = appendAndReturn [c] s := by
  rw [exec, execTxpath, ite_not_open hp, if_pos ((pathChar_iff c).mpr ⟨hlo, hhi⟩)]

theorem exec_txpath_of_not_pathChar {c : Byte} {s : State} (hp : s.txst = .opened)
    (hc : c.toNat = 0 ∨ 127 < c.toNat) : exec (.txpath c) s = .next (raise .formatError s) := by
  rw [exec, execTxpath, ite_not_open hp, if_neg (by rw [pathChar_iff]; omega), endRaise_eq]

/-- Settles O26: as TXBYTE, with the domain of a path character and its own error. -/
theorem txpathAppendsOneCharacter : Obligations.TxpathAppendsOneCharacter := by
  unfold Obligations.TxpathAppendsOneCharacter
  intro s
  refine ⟨fun w ho => ?_, fun c =>
    ⟨exec_of_not_open rfl, exec_txpath_of_not_pathChar, fun hp hlo hhi hfits => ?_, fun hp hlo hhi hfits => ?_⟩⟩
  · rw [issue_form_b w s _ _ ho rfl, lane_of_word w 0 (by decide)]
  · rw [exec_txpath_of_pathChar hp hlo hhi]
    exact appendAndReturn_of_not_fits hfits
  · rw [exec_txpath_of_pathChar hp hlo hhi]
    exact appendAndReturn_of_fits hfits (sumBytes_singleton c)

/-! ## TXINT and TXNIB (R73, R74) -/

/-- The sum of the five digits of a packed integer (R66). -/
theorem sumBytes_packInteger (v : BitVec 32) : sumBytes (packInteger v) =
    v.toNat / 2 ^ 28 + v.toNat / 2 ^ 21 % 128 + v.toNat / 2 ^ 14 % 128 + v.toNat / 2 ^ 7 % 128 + v.toNat % 128 := by
  rw [packInteger_eq]
  simp only [sumBytes, List.map_cons, List.map_nil, List.sum_cons, List.sum_nil, toNat_ofNat_digit,
    toNat_ofNat_topDigit]
  omega

/-- The sum of the two nibbles of a byte (R62). -/
theorem sumBytes_nibbleEncode (b : Byte) : sumBytes (nibbleEncode b) = b.toNat / 16 + b.toNat % 16 := by
  have hlt := b.isLt
  rw [nibbleEncode_eq]
  simp only [sumBytes, List.map_cons, List.map_nil, List.sum_cons, List.sum_nil, Nat.add_zero,
    toNat_ofNat_byte (n := b.toNat / 16) (by omega), toNat_ofNat_byte (n := b.toNat % 16) (by omega)]

theorem exec_txint_of_open {s : State} (hp : s.txst = .opened) (v : BitVec 32) :
    exec (.txint v) s = appendAndReturn (packInteger v) s := by
  rw [exec, execTxint, ite_not_open hp]

theorem exec_txnib_of_open {s : State} (hp : s.txst = .opened) (b : Byte) :
    exec (.txnib b) s = appendAndReturn (nibbleEncode b) s := by
  rw [exec, execTxnib, ite_not_open hp]

/-- Settles O27: a form V word, and the append of the five digits or of none. -/
theorem txintAppendsFiveDigits : Obligations.TxintAppendsFiveDigits := by
  unfold Obligations.TxintAppendsFiveDigits
  intro s
  refine ⟨fun w ho => ?_, fun v => ⟨exec_of_not_open rfl, fun hp hfits => ?_, fun hp hfits => ?_⟩⟩
  · rw [issue_form_v w s _ _ ho rfl, valueField_of_word]
  · rw [exec_txint_of_open hp]
    exact appendAndReturn_of_not_fits hfits
  · rw [exec_txint_of_open hp, appendAndReturn_of_fits hfits (sumBytes_packInteger v), packInteger_eq]
    rfl

/-- Settles O28: a form B word, and the append of both nibbles or of none. -/
theorem txnibAppendsTwoNibbles : Obligations.TxnibAppendsTwoNibbles := by
  unfold Obligations.TxnibAppendsTwoNibbles
  intro s
  refine ⟨fun w ho => ?_, fun b => ⟨exec_of_not_open rfl, fun hp hfits => ?_, fun hp hfits => ?_⟩⟩
  · rw [issue_form_b w s _ _ ho rfl, lane_of_word w 0 (by decide)]
  · rw [exec_txnib_of_open hp]
    exact appendAndReturn_of_not_fits hfits
  · rw [exec_txnib_of_open hp, appendAndReturn_of_fits hfits (sumBytes_nibbleEncode b), nibbleEncode_eq]
    rfl

end Sys2Proof.Machine
end

section
/-! The other commands of the transmit builder: the checksum, the seal and the read of one byte (41_tx_builder.md R75 to
R77). -/

namespace Sys2Proof.Machine

/-! ## TXCK (R75) -/

theorem exec_txck_of_open {s : State} (hp : s.txst = .opened) :
    exec .txck s = .next (ret (byteValue (checksumOfSum s.txacc.toNat)) s) := by
  rw [exec, execTxck, ite_not_open hp, endOk_eq]

/-- The checksum of a sum as a value of `DOUT` (R61, R75). -/
theorem byteValue_checksumOfSum (acc : Nat) :
    byteValue (checksumOfSum acc) = BitVec.ofNat 40 ((128 - acc) % 128) :=
  byteValue_ofNat (by rw [Config.modulus]; omega)

/-- In `OPEN` the accumulator is the sum from index 6 on, so its completion is their checksum (R27 item 2). -/
theorem checksumOfSum_txacc {s : State} (hinv : Inv s) (hp : s.txst = .opened) :
    checksumOfSum s.txacc.toNat = checksum (s.txbuf.drop 6) := by
  obtain ⟨_, _, _, hacc, _⟩ := hinv.openOk hp
  rw [hacc, checksum]

/-- Settles O29: a form N word, the completion of the accumulator, and what the accumulator is under the invariant. -/
theorem txckReturnsTheChecksum : Obligations.TxckReturnsTheChecksum := by
  unfold Obligations.TxckReturnsTheChecksum
  intro s
  refine ⟨fun w ho => issue_form_n w s _ _ ho rfl, exec_of_not_open rfl, fun hp => ?_, fun hp hinv => ?_⟩
  · rw [exec_txck_of_open hp, byteValue_checksumOfSum, ret]
  · rw [exec_txck_of_open hp, checksumOfSum_txacc hinv hp, byteValue, setWidth_byte, ret]

/-! ## TXEND (R76) -/

/-- With nothing after the id there is nothing to seal (R76). -/
theorem exec_txend_of_short {s : State} (hp : s.txst = .opened) (hl : s.txbuf.length < 7) :
    exec .txend s = .next (raise .sequenceError s) := by
  rw [exec, execTxend, ite_not_open hp, if_pos hl, endRaise_eq]

/-- The seal: checksum and end marker appended, and the accumulator completed to 0 (R76). -/
theorem exec_txend_of_open {s : State} (hp : s.txst = .opened) (hl : 7 ≤ s.txbuf.length) :
    exec .txend s = .next (retLength (s.txbuf.length + 2) { s with
      txbuf := s.txbuf ++ [checksumOfSum s.txacc.toNat, Config.eox], txacc := 0, txst := .sealed }) := by
  rw [exec, execTxend, ite_not_open hp, if_neg (by omega)]
  simp only [endLength_eq, length_append_bytes, accumulate_checksumOfSum]
  rfl

/-- Settles O30: a form N word, the two sides of the length check, and the message that sealing makes. -/
theorem txendSealsTheMessage : Obligations.TxendSealsTheMessage := by
  unfold Obligations.TxendSealsTheMessage
  intro s
  refine ⟨fun w ho => issue_form_n w s _ _ ho rfl, exec_of_not_open rfl, exec_txend_of_short, exec_txend_of_open,
    fun hp hl hinv => ?_⟩
  obtain ⟨hform, _⟩ := (openOk_iff hp).mp hinv.openOk
  obtain ⟨id, body, _, hok, hseal⟩ := hform.seal hl
  exact hseal ▸ hok

/-! ## RDTX (R77) -/

theorem readIndex_of_le {buf : Bytes} {idx : BitVec 32} (h : buf.length ≤ idx.toNat) (s : State) :
    readIndex buf idx s = .next (raise .rangeError s) := by
  simp only [readIndex, (memRead_eq_none_iff buf idx.toNat).mpr h, endRaise_eq]

/-- A byte read stands in the low lane of `DOUT` (20_memory.md R33). -/
theorem readIndex_of_memRead {buf : Bytes} {idx : BitVec 32} {b : Byte} (h : memRead buf idx.toNat = some b)
    (s : State) : readIndex buf idx s = .next { s with rc := 0, dout := 0#32 ++ b } := by
  simp only [readIndex, h, endOk_eq, ret, byteValue, setWidth_byte]

/-- Every index below the length addresses a byte (20_memory.md R33). -/
theorem exists_memRead_of_lt {buf : Bytes} {i : Nat} (h : i < buf.length) : ∃ b, memRead buf i = some b :=
  ⟨buf[i], List.getElem?_eq_getElem h⟩

/-- Settles O31: a form V word, the two outcomes of a read, and the empty buffer of phase `IDLE`. -/
theorem rdtxReadsOneByte : Obligations.RdtxReadsOneByte := by
  unfold Obligations.RdtxReadsOneByte
  intro s
  refine ⟨fun w ho => ?_, fun idx => ⟨fun hidx => readIndex_of_le hidx s, fun b hb => readIndex_of_memRead hb s,
    exists_memRead_of_lt, fun hidle hinv => ?_⟩⟩
  · rw [issue_form_v w s _ _ ho rfl, valueField_of_word]
  · obtain ⟨hbuf, _⟩ := hinv.idleOk hidle
    exact readIndex_of_le (by rw [hbuf]; exact Nat.zero_le _) s

end Sys2Proof.Machine
end

section
/-! The receive validator: the comparisons with the expected response, the frame and sum check, and the byte reads
(42_rx_validator.md R80 to R82, R84, R85). -/

namespace Sys2Proof.Machine

/-! ## The checks of the receive validator (60_exceptions.md R129) -/

/-- The commands that ask for a received message. -/
def needsReceived (i : Instr) : Bool :=
  match i with
  | .rxvalhdr _ _ _ | .rxack _ _ _ | .rxchk | .rxdecode | .rdrx _ => true
  | _ => false

/-- The state check comes first: with no message held each of these commands raises `SequenceError` (R127, R129). -/
theorem exec_of_not_received {i : Instr} {s : State} (hi : needsReceived i = true) (hv : s.rxvalid = false) :
    exec i s = .next (raise .sequenceError s) := by
  have hcheck : (!s.rxvalid) = true := by rw [hv, Bool.not_false]
  cases i with
  | rxvalhdr _ _ _ => exact if_pos hcheck
  | rxack _ _ _ => exact if_pos hcheck
  | rxchk => exact if_pos hcheck
  | rxdecode => exact if_pos hcheck
  | rdrx _ => exact if_pos hcheck
  | _ => cases hi

/-- With the valid bit set the check of the state lets the command go on. -/
theorem ite_not_valid {valid : Bool} (hv : valid = true) (o o' : Host.Outcome State Fault Refusal) :
    (if (!valid) = true then o else o') = o' :=
  if_neg (by rw [hv]; decide)

/-! ## RXVALHDR and RXACK (R80, R81) -/

/-- An expected value above 127 is outside the domain (R80, R81). -/
theorem not_expectedInDomain {id cat op : Byte} (h : 127 < id.toNat ∨ 127 < cat.toNat ∨ 127 < op.toNat) :
    (!expectedInDomain id cat op) = true := by
  rw [Bool.not_eq_true', ← Bool.not_eq_true, expectedInDomain_iff]
  omega

theorem exec_rxvalhdr_of_expected {id cat op : Byte} {s : State} (hv : s.rxvalid = true)
    (hdom : expectedInDomain id cat op = true) :
    exec (.rxvalhdr id cat op) s = if startsWith s.rxbuf (header s.params id cat op) = true
      then .next (ret 1 s) else .next (raise .protocolMismatch s) := by
  rw [exec, execRxvalhdr, ite_not_valid hv, ite_not_valid hdom, endOk_eq, endRaise_eq]

/-- Settles O35: a form T word, then the checks in the order of R129 and the first nine bytes. -/
theorem rxvalhdrComparesTheFirstNineBytes : Obligations.RxvalhdrComparesTheFirstNineBytes := by
  unfold Obligations.RxvalhdrComparesTheFirstNineBytes
  intro s
  refine ⟨fun w ho => ?_, fun id cat op => ⟨exec_of_not_received rfl, fun hv hdom => ?_, fun hv hid hcat hop => ?_⟩⟩
  · rw [issue_form_t w s _ _ ho rfl, lane_of_word w 2 (by decide), lane_of_word w 1 (by decide),
      lane_of_word w 0 (by decide)]
  · rw [exec, execRxvalhdr, ite_not_valid hv, if_pos (not_expectedInDomain hdom), endRaise_eq]
  · rw [exec_rxvalhdr_of_expected hv ((expectedInDomain_iff id cat op).mpr ⟨hid, hcat, hop⟩)]
    exact if_congr (startsWith_iff _ _) rfl rfl

/-- Equal length and every byte as in the template is equality (R81). -/
theorem length_and_startsWith_iff {m template : Bytes} :
    m.length = template.length ∧ startsWith m template = true ↔ m = template := by
  rw [startsWith_iff]
  constructor
  · rintro ⟨hlen, htake⟩
    rwa [List.take_of_length_le hlen.le] at htake
  · rintro rfl
    exact ⟨rfl, List.take_length⟩

theorem exec_rxack_of_expected {id cat op : Byte} {s : State} (hv : s.rxvalid = true)
    (hdom : expectedInDomain id cat op = true) :
    exec (.rxack id cat op) s =
      if s.rxbuf.length = 10 ∧ startsWith s.rxbuf (ackTemplate s.params id cat op) = true
      then .next (ret 1 s) else .next (raise .protocolMismatch s) := by
  rw [exec, execRxack, ite_not_valid hv, ite_not_valid hdom, endOk_eq, endRaise_eq]

/-- Settles O36: as RXVALHDR, with the whole message equal to the template. -/
theorem rxackAcceptsExactlyTheTemplate : Obligations.RxackAcceptsExactlyTheTemplate := by
  unfold Obligations.RxackAcceptsExactlyTheTemplate
  intro s
  refine ⟨fun w ho => ?_, fun id cat op => ⟨exec_of_not_received rfl, fun hv hdom => ?_, fun hv hid hcat hop => ?_⟩⟩
  · rw [issue_form_t w s _ _ ho rfl, lane_of_word w 2 (by decide), lane_of_word w 1 (by decide),
      lane_of_word w 0 (by decide)]
  · rw [exec, execRxack, ite_not_valid hv, if_pos (not_expectedInDomain hdom), endRaise_eq]
  · rw [exec_rxack_of_expected hv ((expectedInDomain_iff id cat op).mpr ⟨hid, hcat, hop⟩)]
    exact if_congr (length_and_startsWith_iff (template := ackTemplate s.params id cat op)) rfl rfl

/-! ## RXCHK (R82) -/

/-- A byte stands in a slice exactly if it stands in the message at an index of the slice, ends included. -/
theorem mem_slice_iff {m : Bytes} {i j : Nat} {b : Byte} :
    b ∈ slice m i j ↔ ∃ k, i ≤ k ∧ k ≤ j ∧ memRead m k = some b := by
  simp only [slice, memRead, List.mem_iff_getElem?, List.getElem?_take, List.getElem?_drop]
  constructor
  · rintro ⟨k, hk⟩
    split at hk
    · exact ⟨i + k, by omega, by omega, hk⟩
    · cases hk
  · rintro ⟨k, hik, hkj, hk⟩
    exact ⟨k - i, by rw [if_pos (by omega), Nat.add_sub_cancel' hik]; exact hk⟩

/-- `FRAMEOK` in words (R82). -/
theorem frameOk_iff (m : Bytes) : frameOk m = true ↔ 9 ≤ m.length ∧ memRead m 0 = some 0xF0#8 ∧
    memRead m (m.length - 1) = some 0xF7#8 ∧
    ∀ i, 1 ≤ i → i ≤ m.length - 2 → ∀ b, memRead m i = some b → b.toNat ≤ 127 := by
  have hsafe : (slice m 1 (m.length - 2)).all sevenBitSafe = true ↔
      ∀ i, 1 ≤ i → i ≤ m.length - 2 → ∀ b, memRead m i = some b → b.toNat ≤ 127 := by
    simp only [List.all_eq_true, sevenBitSafe_iff, mem_slice_iff]
    exact ⟨fun h i h1 hi b hb => h b ⟨i, h1, hi, hb⟩, fun h b ⟨i, h1, hi, hb⟩ => h i h1 hi b hb⟩
  simp only [frameOk, Bool.and_eq_true, decide_eq_true_iff, beq_iff_eq, hsafe, and_assoc, Config.sox, Config.eox]

/-- `SUMOK` in words (R82). -/
theorem sumOk_iff (m : Bytes) :
    sumOk m = true ↔ 9 ≤ m.length ∧ sum7 ((m.drop 6).take (m.length - 7)) = 0 := by
  have hcount : m.length - 2 + 1 - 6 = m.length - 7 := by omega
  simp only [sumOk, slice, Config.ckStart, hcount, Bool.and_eq_true, decide_eq_true_iff, beq_iff_eq]

/-- The value of RXCHK: two bits, each with its own report (R82). -/
def checkValue (frame sum : Bool) : Word40 := (BitVec.ofBool frame ++ BitVec.ofBool sum).setWidth 40

theorem checkValue_toNat_lt (frame sum : Bool) : (checkValue frame sum).toNat < 4 := by
  cases frame <;> cases sum <;> decide

@[simp] theorem checkValue_bit_one (frame sum : Bool) : (checkValue frame sum).getLsbD 1 = frame := by
  cases frame <;> cases sum <;> decide

@[simp] theorem checkValue_bit_zero (frame sum : Bool) : (checkValue frame sum).getLsbD 0 = sum := by
  cases frame <;> cases sum <;> decide

theorem exec_rxchk_of_received {s : State} (hv : s.rxvalid = true) :
    exec .rxchk s = .next (ret (checkValue (frameOk s.rxbuf) (sumOk s.rxbuf)) s) := by
  rw [exec, execRxchk, ite_not_valid hv, endOk_eq, checkValue]

/-- Settles O37: a form N word, and the two reports in the two bits of the value. -/
theorem rxchkReportsFrameAndSum : Obligations.RxchkReportsFrameAndSum := by
  unfold Obligations.RxchkReportsFrameAndSum
  intro s
  refine ⟨fun w ho => issue_form_n w s _ _ ho rfl, exec_of_not_received rfl, fun hv =>
    ⟨checkValue (frameOk s.rxbuf) (sumOk s.rxbuf), exec_rxchk_of_received hv, checkValue_toNat_lt _ _, ?_, ?_⟩⟩
  · rw [checkValue_bit_one, frameOk_iff]
  · rw [checkValue_bit_zero, sumOk_iff]

/-! ## RDRX and RDD (R84, R85) -/

theorem exec_rdrx_of_received {s : State} (hv : s.rxvalid = true) (idx : BitVec 32) :
    exec (.rdrx idx) s = readIndex s.rxbuf idx s := by
  rw [exec, execRdrx, ite_not_valid hv]

/-- Settles O39: a form V word, the check of the state and the two outcomes of a read. -/
theorem rdrxReadsOneByte : Obligations.RdrxReadsOneByte := by
  unfold Obligations.RdrxReadsOneByte
  intro s
  refine ⟨fun w ho => ?_, fun idx =>
    ⟨exec_of_not_received rfl, fun hv hidx => ?_, fun b hv hb => ?_, exists_memRead_of_lt⟩⟩
  · rw [issue_form_v w s _ _ ho rfl, valueField_of_word]
  · rw [exec_rdrx_of_received hv, readIndex_of_le hidx]
  · rw [exec_rdrx_of_received hv, readIndex_of_memRead hb]

theorem exec_rdd_of_not_decoded {s : State} (hv : s.dvalid = false) (idx : BitVec 32) :
    exec (.rdd idx) s = .next (raise .sequenceError s) :=
  if_pos (by rw [hv, Bool.not_false])

theorem exec_rdd_of_decoded {s : State} (hv : s.dvalid = true) (idx : BitVec 32) :
    exec (.rdd idx) s = readIndex s.dbuf idx s := by
  rw [exec, execRdd, ite_not_valid hv]

/-- Settles O40: as RDRX, with the decoded payload and its own valid bit. -/
theorem rddReadsOneByte : Obligations.RddReadsOneByte := by
  unfold Obligations.RddReadsOneByte
  intro s
  refine ⟨fun w ho => ?_, fun idx =>
    ⟨fun hv => exec_rdd_of_not_decoded hv idx, fun hv hidx => ?_, fun b hv hb => ?_, exists_memRead_of_lt⟩⟩
  · rw [issue_form_v w s _ _ ho rfl, valueField_of_word]
  · rw [exec_rdd_of_decoded hv, readIndex_of_le hidx]
  · rw [exec_rdd_of_decoded hv, readIndex_of_memRead hb]

end Sys2Proof.Machine
end

section
/-! RXDECODE: which payloads decode, and what `DBUF` then holds (42_rx_validator.md R83, R86). -/

namespace Sys2Proof.Machine

/-! ## What decodes (R63, R83) -/

theorem le_of_nibbleDecode {hi lo b : Byte} (h : nibbleDecode hi lo = some b) : hi.toNat ≤ 15 ∧ lo.toNat ≤ 15 := by
  by_contra hdom
  rw [nibbleDecode_of_lt hi lo (by omega)] at h
  cases h

/-- Every byte of what decodes is a nibble (R83). -/
theorem le_of_nibbleDecodeAll {s bs : Bytes} (h : nibbleDecodeAll s = some bs) {j : Nat} {b : Byte}
    (hb : memRead s j = some b) : b.toNat ≤ 15 := by
  obtain ⟨hlen, hpairs⟩ := nibbleDecodeAll_pairs h
  have hj : j < s.length := by
    by_contra hj
    rw [(memRead_eq_none_iff s j).mpr (by omega)] at hb
    cases hb
  obtain ⟨hi, lo, _, hhi, hlo, _, hdec⟩ := hpairs (j / 2) (by omega)
  obtain ⟨hhi15, hlo15⟩ := le_of_nibbleDecode hdec
  rcases Nat.mod_two_eq_zero_or_one j with heven | hodd
  · rw [show 2 * (j / 2) = j by omega, hb] at hhi
    cases hhi
    exact hhi15
  · rw [show 2 * (j / 2) + 1 = j by omega, hb] at hlo
    cases hlo
    exact hlo15

/-- A region that holds the two nibbles of every byte of the data, in order, decodes to the data (R62, R83). -/
theorem nibbleDecodeAll_of_nibbles {data s : Bytes} (hlen : s.length = 2 * data.length)
    (h : ∀ k b, memRead data k = some b →
      memRead s (2 * k) = some (nibbleHi b) ∧ memRead s (2 * k + 1) = some (nibbleLo b)) :
    nibbleDecodeAll s = some data := by
  induction data generalizing s with
  | nil => rw [List.eq_nil_of_length_eq_zero hlen, nibbleDecodeAll]
  | cons b rest ih =>
    match s, hlen, h with
    | hi :: lo :: tail, hlen, h =>
      obtain ⟨hhi, hlo⟩ := h 0 b rfl
      cases hhi
      cases hlo
      have htail : nibbleDecodeAll tail = some rest :=
        ih (by simpa [Nat.mul_succ] using hlen) fun k c hc => h (k + 1) c hc
      exact (nibbleDecodeAll_cons _ _ _ _).mpr ⟨b, rest, nibbleDecode_nibbles b, htail, rfl⟩

/-! ## The payload region (R86) -/

/-- The payload region reads as the message nine places further, up to the third byte from the message's end. -/
theorem memRead_payload {m : Bytes} {k : Nat} (h : 9 + k + 2 < m.length) :
    memRead (payload m) k = memRead m (9 + k) := by
  rw [memRead, payload, slice, List.getElem?_take_of_lt (by omega), List.getElem?_drop, memRead]

/-- An odd payload, or one with a byte above 15, does not decode (R83). -/
theorem nibbleDecodeAll_payload_eq_none {m : Bytes} (h11 : 11 ≤ m.length)
    (hbad : (m.length - 11) % 2 = 1 ∨
      ∃ j b, 9 ≤ j ∧ j + 2 < m.length ∧ memRead m j = some b ∧ 15 < b.toNat) :
    nibbleDecodeAll (payload m) = none := by
  by_contra hdec
  obtain ⟨bs, hbs⟩ := Option.ne_none_iff_exists'.mp hdec
  rcases hbad with hodd | ⟨j, b, h9, hj, hb, h15⟩
  · obtain ⟨heven, _⟩ := nibbleDecodeAll_pairs hbs
    rw [length_payload h11] at heven
    omega
  · have hread : memRead (payload m) (j - 9) = some b := by
      rw [memRead_payload (by omega), Nat.add_sub_cancel' h9, hb]
    have hle := le_of_nibbleDecodeAll hbs hread
    omega

/-! ## RXDECODE (R83) -/

theorem exec_rxdecode_of_short {s : State} (hv : s.rxvalid = true) (hl : s.rxbuf.length < 11) :
    exec .rxdecode s = .next (raise .formatError s) := by
  rw [exec, execRxdecode, ite_not_valid hv, if_pos hl, endRaise_eq]

/-- A payload that does not decode is a format error, whether for its length or for a byte of it (R83). -/
theorem exec_rxdecode_of_not_decodes {s : State} (hv : s.rxvalid = true) (h11 : 11 ≤ s.rxbuf.length)
    (hdec : nibbleDecodeAll (payload s.rxbuf) = none) : exec .rxdecode s = .next (raise .formatError s) := by
  rw [exec, execRxdecode, ite_not_valid hv, if_neg (by omega), hdec]
  exact ite_self _

/-- Decoded data that do not fit change neither `DBUF` nor `DVALID` (R83). -/
theorem exec_rxdecode_of_not_fits {bs : Bytes} {s : State} (hv : s.rxvalid = true) (h11 : 11 ≤ s.rxbuf.length)
    (hdec : nibbleDecodeAll (payload s.rxbuf) = some bs) (hfits : ¬ Fits s.params.dcap bs.length) :
    exec .rxdecode s = .next (raise .overflow s) := by
  obtain ⟨hlen, _⟩ := nibbleDecodeAll_pairs hdec
  rw [exec, execRxdecode, ite_not_valid hv, if_neg (by omega), if_neg (by omega), hdec]
  exact if_neg (by rwa [withinCapacity_iff_fits])

/-- Settles O38: a form N word, the payloads that do not decode, and those that hold the nibbles of the data. -/
theorem rxdecodeDecodesThePayload : Obligations.RxdecodeDecodesThePayload := by
  unfold Obligations.RxdecodeDecodesThePayload
  intro s
  refine ⟨fun w ho => issue_form_n w s _ _ ho rfl, exec_of_not_received rfl, fun hv hbad => ?_,
    fun data hv hlen hnib => ?_⟩
  · by_cases hl : s.rxbuf.length < 11
    · exact exec_rxdecode_of_short hv hl
    · have h11 := Nat.not_lt.mp hl
      exact exec_rxdecode_of_not_decodes hv h11 (nibbleDecodeAll_payload_eq_none h11 (hbad.resolve_left hl))
  · have h11 : 11 ≤ s.rxbuf.length := by omega
    have hdec : nibbleDecodeAll (payload s.rxbuf) = some data := by
      refine nibbleDecodeAll_of_nibbles (by rw [length_payload h11]; omega) fun k b hb => ?_
      obtain ⟨hk, _⟩ := List.getElem?_eq_some_iff.mp hb
      obtain ⟨hhi, hlo⟩ := hnib k b hb
      rw [memRead_payload (by omega), memRead_payload (by omega), nibbleHi_eq, nibbleLo_eq]
      exact ⟨hhi, by rw [← hlo]; congr 1; omega⟩
    exact ⟨exec_rxdecode_of_not_fits hv h11 hdec, execRxdecode_of_decodes hv h11 hdec⟩

end Sys2Proof.Machine
end

section
/-! The channel commands: what TXSEND and RXRECV do for each answer of the channel, listed or not, and the steps of a block
that waits or has nothing to do (43_channel.md R88 to R90; 60_exceptions.md R124; 70_reset_and_hazards.md R142, R144). -/

namespace Sys2Proof.Machine

/-! ## The channel's reply to a send (R89, log entry 4) -/

theorem sendReply_of_cons {s : State} {a : SendAnswer} {rest : List SendAnswer} (h : s.sendAnswers = a :: rest) :
    sendReply s = a := by
  simp only [sendReply, h]

theorem sendAsked_of_cons {s : State} {a : SendAnswer} {rest : List SendAnswer} (h : s.sendAnswers = a :: rest) :
    sendAsked s = { s with sendAnswers := rest } := by
  simp only [sendAsked, h]

theorem sendAsked_of_nil {s : State} (h : s.sendAnswers = []) : sendAsked s = { s with fresh := s.fresh + 1 } := by
  simp only [sendAsked, h]

/-! ## TXSEND (R88) -/

theorem exec_txsend_of_not_sealed {s : State} (hp : s.txst ≠ .sealed) :
    exec .txsend s = .next (raise .sequenceError s) :=
  if_pos hp

theorem exec_txsend_of_closed {s : State} (hp : s.txst = .sealed) (hr : sendReply s = .closed) :
    exec .txsend s = .next (raise .ioError (record .sendFailed (sendAsked s))) := by
  rw [exec, execTxsend, if_neg (not_not.mpr hp), hr, endRaise_eq]

theorem exec_txsend_of_ok {s : State} (hp : s.txst = .sealed) (hr : sendReply s = .ok) :
    exec .txsend s = .next (retLength s.txbuf.length
      { record (.sent s.txbuf) (sendAsked s) with txbuf := [], txacc := 0, txst := .idle }) := by
  rw [exec, execTxsend, if_neg (not_not.mpr hp), hr, endLength_eq]

/-- Settles O32: a form N word, the check of the phase, and the two answers that can stand first in the list. -/
theorem txsendHandsOverTheSealedMessage : Obligations.TxsendHandsOverTheSealedMessage := by
  unfold Obligations.TxsendHandsOverTheSealedMessage
  intro s
  refine ⟨fun w ho => issue_form_n w s _ _ ho rfl, exec_txsend_of_not_sealed, fun rest hp ha => ?_,
    fun rest hp ha => ?_⟩
  · rw [exec_txsend_of_closed hp (sendReply_of_cons ha), sendAsked_of_cons ha, record]
  · rw [exec_txsend_of_ok hp (sendReply_of_cons ha), sendAsked_of_cons ha, record]

/-! ## The channel's answer to a receive (R90) -/

/-- With a deadline configured, a deadline ends the wait (R124). -/
theorem receiveAnswer_deadline_of_configured {s : State} (h : s.params.rxDeadline = true) :
    receiveAnswer .deadline s = raise .timeout (record .recvDeadline { s with waiting := false }) :=
  if_pos h

/-- With none configured, a deadline is no answer (R124, log entry 7). -/
theorem receiveAnswer_deadline_of_unconfigured {s : State} (h : s.params.rxDeadline = false) :
    receiveAnswer .deadline s = keepWaiting s :=
  if_neg (Bool.eq_false_iff.mp h)

theorem receiveAnswer_message_of_fits {s : State} {m : Bytes} (h : Fits s.params.rxcap m.length) :
    receiveAnswer (.message m) s =
      retLength m.length (holdMessage m (record (.received m) { s with waiting := false })) :=
  if_pos ((withinCapacity_iff_fits _ _).mpr h)

theorem receiveAnswer_message_of_not_fits {s : State} {m : Bytes} (h : ¬ Fits s.params.rxcap m.length) :
    receiveAnswer (.message m) s =
      raise .overflow (emptyReceive (record (.received m) { s with waiting := false })) :=
  if_neg (mt (withinCapacity_iff_fits _ _).mp h)

/-! ## RXRECV and the waiting block (R90, R142, R144) -/

theorem exec_rxrecv_of_nil {s : State} (h : s.recvAnswers = []) : exec .rxrecv s = .next (keepWaiting s) := by
  simp only [exec, execRxrecv, h]

/-- RXRECV takes the next answer listed and does what that answer says. -/
theorem exec_rxrecv_of_cons {s t : State} {a : RecvAnswer} {rest : List RecvAnswer} (h : s.recvAnswers = a :: rest)
    (ht : receiveAnswer a { s with recvAnswers := rest } = t) : exec .rxrecv s = .next t := by
  simp only [exec, execRxrecv, h, ht]

/-- The mark of the wait is already there in a waiting block. -/
theorem keepWaiting_of_waiting {s : State} (h : s.waiting = true) : keepWaiting s = s := by
  rw [keepWaiting, ← h]

/-- A waiting RXRECV asks again, whatever word the host presents; only the reset input comes before it (R90, R140). -/
theorem step_of_waiting {s : State} (hw : s.waiting = true) (hin : ∀ rest, s.inputs ≠ .resetPin :: rest) :
    step s = exec .rxrecv s := by
  rcases step_cases s with ⟨rest, hreset, _⟩ | ⟨_, _, hidle, _⟩ | ⟨_, _, hstep⟩ | ⟨hidle, _⟩
  · exact absurd hreset (hin rest)
  · exact absurd (hw.symm.trans hidle) (by decide)
  · exact hstep
  · exact absurd (hw.symm.trans hidle) (by decide)

/-- A block with nothing presented and nothing in progress stays as it is (R142, log entry 10). -/
theorem step_of_idle {s : State} (hw : s.waiting = false) (hin : s.inputs = []) : step s = .next s := by
  have hpending : pending s = .idle := by simp [pending, hin, hw]
  rw [step, hpending]

/-- Settles O33: a form N word, each answer of the channel, and the step of the waiting block. -/
theorem rxrecvTakesOneMessage : Obligations.RxrecvTakesOneMessage := by
  unfold Obligations.RxrecvTakesOneMessage
  intro s
  exact ⟨fun w ho => issue_form_n w s _ _ ho rfl,
    fun _ ha => exec_rxrecv_of_cons ha rfl,
    fun _ hd ha => exec_rxrecv_of_cons ha (receiveAnswer_deadline_of_configured hd),
    fun _ _ ha hfits => exec_rxrecv_of_cons ha (receiveAnswer_message_of_not_fits hfits),
    fun _ _ ha hfits => exec_rxrecv_of_cons ha (receiveAnswer_message_of_fits hfits),
    fun _ ha => exec_rxrecv_of_cons ha rfl,
    step_of_waiting⟩

/-- Settles O8: the waiting block asks the channel and gets no answer, and the idle block asks nobody. -/
theorem noCommandOrNoAnswerChangesNothing : Obligations.NoCommandOrNoAnswerChangesNothing := by
  unfold Obligations.NoCommandOrNoAnswerChangesNothing
  intro s
  refine ⟨fun hw hin ha => ?_, fun answers hw hin ha => ?_, step_of_idle⟩
  · rw [step_of_waiting hw hin, exec_rxrecv_of_nil ha, keepWaiting_of_waiting hw]
  · rw [step_of_waiting hw hin]
    exact exec_rxrecv_of_cons ha (keepWaiting_of_waiting hw)

/-! ## What the lists do not say (log entries 4, 5, 7) -/

/-- The code 4 is `Timeout`'s alone (R120). -/
theorem raise_rc_ne_four {e : ErrKind} (he : e ≠ .timeout) (s : State) : (raise e s).rc ≠ 4 := by
  rw [raise_rc]
  cases e with
  | timeout => exact absurd rfl he
  | _ => decide

/-- With no deadline configured no answer of the channel ends in `Timeout` (R124). -/
theorem receiveAnswer_rc_ne_four (a : RecvAnswer) {s : State} (hd : s.params.rxDeadline = false) (hrc : s.rc ≠ 4) :
    (receiveAnswer a s).rc ≠ 4 := by
  rcases receiveAnswer_cases a s with ⟨h, _⟩ | ⟨_, h⟩ | ⟨_, hconf, _⟩ | ⟨m, _, ⟨_, h⟩ | ⟨_, h⟩⟩
  · rw [h]; exact hrc
  · rw [h]; exact raise_rc_ne_four (by decide) _
  · exact absurd (hd.symm.trans hconf) (by decide)
  · rw [h, retLength_rc]; decide
  · rw [h]; exact raise_rc_ne_four (by decide) _

/-- With no deadline configured no command ends in `Timeout` (R124): only RXRECV could raise it. -/
theorem exec_rc_ne_four {i : Instr} {s t : State} (hd : s.params.rxDeadline = false) (hrc : s.rc ≠ 4)
    (h : exec i s = .next t) : t.rc ≠ 4 := by
  cases exec_effect i s t h with
  | error e ht _ hchannel =>
    obtain ⟨hne, _⟩ := hchannel
    subst t
    exact raise_rc_ne_four hne s
  | sendFailed _ _ ht => subst t; exact raise_rc_ne_four (by decide) _
  | waits _ ht => subst t; exact hrc
  | answered _ a rest _ ht => subst t; exact receiveAnswer_rc_ne_four a hd hrc
  | _ => subst t; simp

/-- Settles O34: an unlisted reply to a send is one of the two, an unlisted answer to a receive is none, and a deadline that
is not configured is none either. -/
theorem unlistedChannelAnswers : Obligations.UnlistedChannelAnswers := by
  unfold Obligations.UnlistedChannelAnswers
  intro s
  refine ⟨fun hp ha => ?_, exec_rxrecv_of_nil,
    fun _ hd ha => exec_rxrecv_of_cons ha (receiveAnswer_deadline_of_unconfigured hd),
    fun hd hrc i t h => exec_rc_ne_four hd hrc h⟩
  cases hr : sendReply s with
  | closed => exact .inl (by rw [exec_txsend_of_closed hp hr, sendAsked_of_nil ha, record])
  | ok => exact .inr (by rw [exec_txsend_of_ok hp hr, sendAsked_of_nil ha, record])

end Sys2Proof.Machine
end

section
/-! The system commands: the word of each and its next state (44_system.md R92 to R95), and the bits of the `STATUS` view
(10_state.md R24). -/

namespace Sys2Proof.Machine

/-! ## RESET and CLRERR (R92, R93) -/

/-- RESET ends with a 0 in `DOUT` and in `RC`, which the reset state holds already. -/
theorem ret_zero_resetRecord (s : State) : ret 0 (resetRecord s) = resetRecord s := rfl

/-- Settles O12: a form N word, and the reset state. -/
theorem resetCommandGivesTheResetState : Obligations.ResetCommandGivesTheResetState := by
  unfold Obligations.ResetCommandGivesTheResetState
  intro s
  refine ⟨fun w ho => issue_form_n w s _ _ ho rfl, ?_⟩
  rw [exec, execReset, endOk_eq, ret_zero_resetRecord, resetRecord]

/-- `ERR` as a value of `DOUT`: its 8 bits with zeros above them (R16). -/
theorem setWidth_err (err : BitVec 8) : err.setWidth 40 = 0#32 ++ err :=
  BitVec.setWidth_eq_append (by decide)

/-- Settles O13: a form N word, and the flags as they were in the low bits of `DOUT`. -/
theorem clrerrReturnsAndClearsTheFlags : Obligations.ClrerrReturnsAndClearsTheFlags := by
  unfold Obligations.ClrerrReturnsAndClearsTheFlags
  intro s
  refine ⟨fun w ho => issue_form_n w s _ _ ho rfl, ?_⟩
  rw [exec, execClrerr, endOk_eq, setWidth_err, ret]

/-! ## The bits of `STATUS` (10_state.md R24) -/

/-- The bit put below a word is its bit 0. -/
theorem getLsbD_append_ofBool_zero {n : Nat} (x : BitVec n) (b : Bool) : (x ++ BitVec.ofBool b).getLsbD 0 = b :=
  BitVec.getLsbD_concat_zero

/-- Above the bit put below a word stand the word's own bits. -/
theorem getLsbD_append_ofBool_succ {n : Nat} (x : BitVec n) (b : Bool) (k : Nat) :
    (x ++ BitVec.ofBool b).getLsbD (k + 1) = x.getLsbD k :=
  BitVec.getLsbD_concat_succ

theorem statusLow_bit_zero (s : State) : (statusLow s).getLsbD 0 = decide (s.txst = .opened) :=
  (getLsbD_append_ofBool_zero _ _).trans (beq_eq_decide _ _)

/-- Above bit 0 stand the bits put before it. -/
theorem statusLow_bit_succ (s : State) (k : Nat) : (statusLow s).getLsbD (k + 1) =
    (0#4 ++ BitVec.ofBool s.dvalid ++ BitVec.ofBool s.rxvalid ++ BitVec.ofBool (s.txst == .sealed)).getLsbD k :=
  getLsbD_append_ofBool_succ _ _ k

theorem statusLow_bit_one (s : State) : (statusLow s).getLsbD 1 = decide (s.txst = .sealed) := by
  rw [statusLow_bit_succ, getLsbD_append_ofBool_zero, beq_eq_decide]

theorem statusLow_bit_two (s : State) : (statusLow s).getLsbD 2 = s.rxvalid := by
  rw [statusLow_bit_succ, getLsbD_append_ofBool_succ, getLsbD_append_ofBool_zero]

theorem statusLow_bit_three (s : State) : (statusLow s).getLsbD 3 = s.dvalid := by
  rw [statusLow_bit_succ, getLsbD_append_ofBool_succ, getLsbD_append_ofBool_succ, getLsbD_append_ofBool_zero]

/-- The reserved bits 7:4 read 0, and there are no bits above. -/
theorem statusLow_bit_of_le (s : State) {k : Nat} (h : 4 ≤ k) : (statusLow s).getLsbD k = false := by
  obtain ⟨j, rfl⟩ := Nat.exists_eq_add_of_le' h
  rw [statusLow_bit_succ, getLsbD_append_ofBool_succ, getLsbD_append_ofBool_succ, getLsbD_append_ofBool_succ,
    BitVec.getLsbD_zero]

/-- Bits 7:0 of `STATUS` are the phase and the valid bits. -/
theorem status_bit_of_lt (s : State) {k : Nat} (h : k < 8) : (status s).getLsbD k = (statusLow s).getLsbD k := by
  rw [status, BitVec.getLsbD_append, if_pos h]

/-- Bits 15:8 of `STATUS` are `ERR`. -/
theorem status_bit_add_eight (s : State) (k : Nat) : (status s).getLsbD (8 + k) = s.err.getLsbD k := by
  rw [status, BitVec.getLsbD_append, if_neg (by omega), Nat.add_sub_cancel_left]

/-! ## RDSTAT (R94) -/

/-- In `DOUT` stand the bits of `STATUS`, and nothing above them (R16). -/
theorem getLsbD_dout_status (s : State) (k : Nat) : ((status s).setWidth 40).getLsbD k = (status s).getLsbD k := by
  rw [BitVec.getLsbD_setWidth]
  by_cases hk : k < 40
  · simp [hk]
  · rw [BitVec.getLsbD_of_ge _ k (by omega), Bool.and_false]

/-- Settles O14: a form N word, and each bit of `STATUS` in `DOUT`. -/
theorem rdstatReturnsTheStatusView : Obligations.RdstatReturnsTheStatusView := by
  unfold Obligations.RdstatReturnsTheStatusView
  intro s
  refine ⟨fun w ho => issue_form_n w s _ _ ho rfl, (status s).setWidth 40, ?_, ?_⟩
  · rw [exec, execRdstat, endOk_eq, ret]
  · simp only [getLsbD_dout_status]
    refine ⟨?_, ?_, ?_, ?_, fun k h4 h8 => ?_, fun k _ => status_bit_add_eight s k, fun k h16 => ?_⟩
    · rw [status_bit_of_lt s (by decide), statusLow_bit_zero]
    · rw [status_bit_of_lt s (by decide), statusLow_bit_one]
    · rw [status_bit_of_lt s (by decide), statusLow_bit_two]
    · rw [status_bit_of_lt s (by decide), statusLow_bit_three]
    · rw [status_bit_of_lt s h8, statusLow_bit_of_le s h4]
    · exact BitVec.getLsbD_of_ge _ k h16

/-! ## RDLEN (R95) -/

/-- A selector above 2 names no length. -/
theorem exec_rdlen_of_gt {sel : Byte} (h : 2 < sel.toNat) (s : State) :
    exec (.rdlen sel) s = .next (raise .rangeError s) := by
  rw [exec, execRdlen]
  split
  case h_4 => rw [endRaise_eq]
  all_goals omega

/-- Settles O15: a form B word, then the three selectors and the rest. -/
theorem rdlenReturnsTheSelectedLength : Obligations.RdlenReturnsTheSelectedLength := by
  unfold Obligations.RdlenReturnsTheSelectedLength
  intro s
  refine ⟨fun w ho => ?_, rfl, rfl, rfl, fun sel hsel => exec_rdlen_of_gt hsel s⟩
  rw [issue_form_b w s _ _ ho rfl, lane_of_word w 0 (by decide)]

end Sys2Proof.Machine
end

section
/-! Requests on the block: how a sequence of commands goes on or stops, what the commands between TXBEGIN and TXEND make
of a message, and the requests so built (30_encoding.md R44, R54, R56, R57; 45_host_sequences.md R97 to R100). -/

namespace Sys2Proof.Machine

/-! ## Running a sequence (R44, R97) -/

/-- What a sequence does after its first command: it goes on after `OK`, and else stops. -/
theorem runCommands_cons {i : Instr} {rest : List Instr} {s t : State} (h : exec i s = .next t)
    (hw : t.waiting = false) :
    runCommands (i :: rest) s = if t.rc = 0 then runCommands rest t else .next t := by
  simp only [runCommands, runCommand_of_not_waiting h hw, onNext_next, hw, and_true]
  rfl

theorem runCommands_cons_of_ok {i : Instr} {rest : List Instr} {s t : State} (h : exec i s = .next t)
    (hw : t.waiting = false) (hrc : t.rc = 0) : runCommands (i :: rest) s = runCommands rest t := by
  rw [runCommands_cons h hw, if_pos hrc]

/-- A command that raises ends the sequence; the commands after it are not presented. -/
theorem runCommands_cons_of_raise {i : Instr} {e : ErrKind} {rest : List Instr} {s : State}
    (h : exec i s = .next (raise e s)) (hw : s.waiting = false) :
    runCommands (i :: rest) s = .next (raise e s) := by
  exact (runCommands_cons h hw).trans (if_neg (errKind_code_ne_zero e))

/-- A sequence that ends with `OK` and no wait goes on with what follows it. -/
theorem runCommands_append {cmds rest : List Instr} {s t : State} (h : runCommands cmds s = .next t)
    (hw : t.waiting = false) (hrc : t.rc = 0) : runCommands (cmds ++ rest) s = runCommands rest t := by
  induction cmds generalizing s with
  | nil => cases h; rfl
  | cons i cmds ih =>
    rw [List.cons_append, runCommands]
    rw [runCommands] at h
    cases hi : runCommand i s with
    | fault r => cases r
    | refused r => rw [hi] at h; cases h
    | next u =>
      rw [hi, onNext_next] at h
      rw [onNext_next]
      split at h
      · next hok => rw [if_pos hok, ih h]
      · next hstop => cases h; exact absurd ⟨hrc, hw⟩ hstop

/-! ## A message under construction -/

/-- A returned length writes `RC`, `DOUT` and the counter of the free values (R16, R17; log entry 9). -/
theorem retLength_frame (n : Nat) (s : State) :
    ∃ dout fresh, retLength n s = { s with rc := 0, dout := dout, fresh := fresh } := by
  rcases Nat.lt_or_ge n (2 ^ 40) with h | h
  · exact ⟨_, _, retLength_of_lt h s⟩
  · exact ⟨_, _, retLength_of_le h s⟩

/-- A returned length takes the place of whatever result stood there. -/
theorem retLength_overwrites (n : Nat) (rc : BitVec 8) (dout : Word40) (s : State) :
    retLength n { s with rc := rc, dout := dout } = retLength n s := by
  unfold retLength
  split <;> rfl

/-- `s` after a message for `id` was begun in it and `body` appended, with `OK` and what else a returned length writes. -/
def underConstruction (s : State) (id : Byte) (body : Bytes) (dout : Word40) (fresh : Nat) : State :=
  { s with
    rc := 0, dout := dout, fresh := fresh, txst := .opened
    txbuf := messageStart s.params id ++ body, txacc := BitVec.ofNat 7 (sum7 body) }

theorem toNat_ofNat_sum7 (body : Bytes) : (BitVec.ofNat 7 (sum7 body)).toNat = sum7 body := by
  rw [BitVec.toNat_ofNat, Nat.mod_eq_of_lt (sum7_lt body)]

/-- TXBEGIN begins with an empty body (R70). -/
theorem exec_txbegin_eq_underConstruction {id : Byte} (hid : id.toNat ≤ 127) (s : State) :
    exec (.txbegin id) s = .next (underConstruction s id [] 6 s.fresh) := by
  rw [exec, execTxbegin, if_pos ((sevenBitSafe_iff id).mpr hid), underConstruction, List.append_nil]
  rfl

/-- An append that fits puts its bytes at the end of the body (R79). -/
theorem appendAndReturn_underConstruction {s : State} {body bs : Bytes}
    (hfits : Fits s.params.txcap (8 + body.length + bs.length)) (id : Byte) (dout : Word40) (fresh : Nat) :
    ∃ dout' fresh', appendAndReturn bs (underConstruction s id body dout fresh) =
      .next (underConstruction s id (body ++ bs) dout' fresh') := by
  have hlen : (messageStart s.params id ++ body).length + bs.length + 2 = 8 + body.length + bs.length := by
    rw [List.length_append, length_messageStart]; omega
  have hacc : BitVec.ofNat 7 (((BitVec.ofNat 7 (sum7 body)).toNat + sumBytes bs) % 128) =
      BitVec.ofNat 7 (sum7 (body ++ bs)) := by
    rw [toNat_ofNat_sum7, sum7_append]
  obtain ⟨dout', fresh', hret⟩ := retLength_frame
    ((messageStart s.params id ++ body).length + bs.length)
    { underConstruction s id body dout fresh with
      txbuf := messageStart s.params id ++ body ++ bs, txacc := BitVec.ofNat 7 (sum7 (body ++ bs)) }
  refine ⟨dout', fresh', ?_⟩
  have happ := appendAndReturn_of_fits (s := underConstruction s id body dout fresh) (bs := bs)
    (by rw [underConstruction, hlen]; exact hfits) rfl
  simp only [underConstruction, hacc] at happ hret ⊢
  rw [happ, hret, List.append_assoc]

/-! ## Sequences of appends -/

/-- The commands put `bs` at the end of every body that leaves room for it, its checksum and the end marker (R78, R79). -/
def Appends (cmds : List Instr) (bs : Bytes) : Prop :=
  ∀ (s : State) (id : Byte) (body : Bytes) (dout : Word40) (fresh : Nat), s.waiting = false →
    Fits s.params.txcap (8 + body.length + bs.length) →
    ∃ dout' fresh', runCommands cmds (underConstruction s id body dout fresh) =
      .next (underConstruction s id (body ++ bs) dout' fresh')

theorem Fits.mono {capacity : Option Nat} {m n : Nat} (h : Fits capacity n) (hmn : m ≤ n) : Fits capacity m :=
  fun c hc => le_trans hmn (h c hc)

theorem appends_nil : Appends [] [] :=
  fun _ _ body dout fresh _ _ => ⟨dout, fresh, by rw [List.append_nil, runCommands]⟩

theorem Appends.append {cmds cmds' : List Instr} {bs bs' : Bytes} (h : Appends cmds bs) (h' : Appends cmds' bs') :
    Appends (cmds ++ cmds') (bs ++ bs') := by
  intro s id body dout fresh hw hfits
  rw [List.length_append] at hfits
  obtain ⟨dout₁, fresh₁, hrun⟩ := h s id body dout fresh hw (hfits.mono (by omega))
  obtain ⟨dout₂, fresh₂, hrun'⟩ := h' s id (body ++ bs) dout₁ fresh₁ hw
    (by rw [List.length_append]; exact hfits.mono (by omega))
  refine ⟨dout₂, fresh₂, ?_⟩
  rw [runCommands_append hrun hw rfl, hrun', List.append_assoc]

/-- A command that in phase `OPEN` is the append of some bytes appends them. -/
theorem appends_of_exec {i : Instr} {bs : Bytes}
    (h : ∀ t : State, t.txst = .opened → exec i t = appendAndReturn bs t) : Appends [i] bs := by
  intro s id body dout fresh hw hfits
  obtain ⟨dout', fresh', happ⟩ := appendAndReturn_underConstruction hfits id dout fresh
  refine ⟨dout', fresh', ?_⟩
  rw [runCommands_cons_of_ok ((h _ rfl).trans happ) hw rfl, runCommands]

theorem appends_txbyte {b : Byte} (hb : b.toNat ≤ 127) : Appends [.txbyte b] [b] :=
  appends_of_exec fun _ hp => exec_txbyte_of_le hp hb

theorem appends_txpath {c : Byte} (hlo : 1 ≤ c.toNat) (hhi : c.toNat ≤ 127) : Appends [.txpath c] [c] :=
  appends_of_exec fun _ hp => exec_txpath_of_pathChar hp hlo hhi

theorem appends_txint (v : BitVec 32) : Appends [.txint v] (packInteger v) :=
  appends_of_exec fun _ hp => exec_txint_of_open hp v

theorem appends_txnib (b : Byte) : Appends [.txnib b] (nibbleEncode b) :=
  appends_of_exec fun _ hp => exec_txnib_of_open hp b

/-- `TXSTR` appends the path (R44). -/
theorem appends_txStr {path : Bytes} (hpath : ∀ c ∈ path, 1 ≤ c.toNat ∧ c.toNat ≤ 127) :
    Appends (txStr path) path := by
  induction path with
  | nil => exact appends_nil
  | cons c rest ih =>
    obtain ⟨⟨hlo, hhi⟩, hrest⟩ := List.forall_mem_cons.mp hpath
    exact (appends_txpath hlo hhi).append (ih hrest)

/-- `TXDATA` appends the nibbles of the data (R44). -/
theorem appends_txData (data : Bytes) : Appends (txData data) (nibbleEncodeAll data) := by
  induction data with
  | nil => exact appends_nil
  | cons b rest ih => exact (appends_txnib b).append ih

/-! ## Requests -/

/-- The state of `s` with a message for `id` around `body` sealed (R46, R76). -/
def withSealed (s : State) (id : Byte) (body : Bytes) (fresh : Nat) : State :=
  { s with txbuf := builtMessage s.params id body, txacc := 0, txst := .sealed, fresh := fresh }

/-- TXEND seals a message under construction whose body is not empty (R76). -/
theorem exec_txend_underConstruction {body : Bytes} (hne : 1 ≤ body.length) (s : State) (id : Byte) (dout : Word40)
    (fresh : Nat) :
    exec .txend (underConstruction s id body dout fresh) =
      .next (retLength (body.length + 8) (withSealed s id body fresh)) := by
  have hlen : (messageStart s.params id ++ body).length = body.length + 6 := by
    rw [List.length_append, length_messageStart, Nat.add_comm]
  rw [exec_txend_of_open rfl (by rw [underConstruction, hlen]; omega)]
  simp only [underConstruction, hlen, toNat_ofNat_sum7]
  exact congrArg _ (retLength_overwrites _ 0 dout (withSealed s id body fresh))

/-- TXBEGIN, commands that append a body, TXEND: the message around that body stands sealed (R98 to R100). -/
theorem runCommands_request {s : State} {id : Byte} {cmds : List Instr} {body : Bytes} (happ : Appends cmds body)
    (hne : 1 ≤ body.length) (hw : s.waiting = false) (hid : id.toNat ≤ 127)
    (hfits : Fits s.params.txcap (8 + body.length)) :
    ∃ fresh, runCommands (.txbegin id :: (cmds ++ [.txend])) s =
      .next (retLength (body.length + 8) (withSealed s id body fresh)) := by
  obtain ⟨dout, fresh, hrun⟩ := happ s id [] 6 s.fresh hw hfits
  refine ⟨fresh, ?_⟩
  rw [runCommands_cons_of_ok (exec_txbegin_eq_underConstruction hid s) hw rfl, runCommands_append hrun hw rfl,
    List.nil_append,
    runCommands_cons_of_ok (exec_txend_underConstruction hne s id dout fresh) (by rw [retLength_waiting]; exact hw)
      (retLength_rc _ _), runCommands]

/-- The category marker and the opcode, with which every request of R54, R56 and R57 begins. -/
theorem appends_marker_opcode (cat : BitVec 7) {op : Byte} (hop : op.toNat ≤ 127) :
    Appends [.txbyte (byteOf7 cat), .txbyte op] [byteOf7 cat, op] :=
  (appends_txbyte (byteOf7_le cat)).append (appends_txbyte hop)

/-- Settles O54: the two appends of a request without operands, sealed. -/
theorem rescanRequestIsBuilt : Obligations.RescanRequestIsBuilt := by
  unfold Obligations.RescanRequestIsBuilt
  intro s id hw hid hfits
  obtain ⟨fresh, hrun⟩ := runCommands_request (appends_marker_opcode s.params.catFile (op := Config.opRescan)
    (by decide)) (Nat.le_add_left 1 1) hw hid hfits
  refine ⟨_, hrun, retLength_rc _ _, ?_, retLength_txst _ _, ?_⟩
  · simp [retLength, withSealed]
  · rw [retLength_txbuf, withSealed, builtMessage, List.append_assoc]
    rfl

/-- The commands of a Download request between TXBEGIN and TXEND (R99). -/
theorem appends_downloadBody (p : Params) {path : Bytes} (hpath : ∀ c ∈ path, 1 ≤ c.toNat ∧ c.toNat ≤ 127) :
    Appends ([.txbyte (byteOf7 p.catFile), .txbyte Config.opDownload] ++ txStr path) (downloadBody p path) :=
  (appends_marker_opcode p.catFile (by decide)).append (appends_txStr hpath)

@[simp] theorem length_downloadBody (p : Params) (path : Bytes) : (downloadBody p path).length = 2 + path.length := by
  rw [downloadBody, List.length_append]
  rfl

/-- The expansion of `REQ_DOWNLOAD` leaves the Download request sealed (R54, R99). -/
theorem runCommands_reqDownload {s : State} {id : Byte} {path : Bytes} (hw : s.waiting = false) (hid : id.toNat ≤ 127)
    (hpath : ∀ c ∈ path, 1 ≤ c.toNat ∧ c.toNat ≤ 127) (hfits : Fits s.params.txcap (10 + path.length)) :
    ∃ n fresh, runCommands (reqDownload s.params id path) s =
      .next (retLength n (withSealed s id (downloadBody s.params path) fresh)) := by
  obtain ⟨fresh, hrun⟩ := runCommands_request (appends_downloadBody s.params hpath)
    (by rw [length_downloadBody]; omega) hw hid (by rw [length_downloadBody]; exact hfits.mono (by omega))
  exact ⟨_, fresh, hrun⟩

/-- A path character outside its domain stops a Download request with `FormatError`, the message left open (R72, R99). -/
theorem runCommands_reqDownload_of_not_pathChar {s : State} {id c : Byte} {path : Bytes} (rest : Bytes)
    (hw : s.waiting = false) (hid : id.toNat ≤ 127) (hpath : ∀ c ∈ path, 1 ≤ c.toNat ∧ c.toNat ≤ 127)
    (hc : c.toNat = 0 ∨ 127 < c.toNat) (hfits : Fits s.params.txcap (10 + path.length)) :
    ∃ dout fresh, runCommands (reqDownload s.params id (path ++ c :: rest)) s =
      .next (raise .formatError (underConstruction s id (downloadBody s.params path) dout fresh)) := by
  have hreq : reqDownload s.params id (path ++ c :: rest) =
      .txbegin id :: (([.txbyte (byteOf7 s.params.catFile), .txbyte Config.opDownload] ++ txStr path) ++
        .txpath c :: (txStr rest ++ [.txend])) := by
    simp [reqDownload, txStr]
  obtain ⟨dout, fresh, hrun⟩ := appends_downloadBody s.params hpath s id [] 6 s.fresh hw
    (by rw [length_downloadBody]; exact hfits.mono (by rw [List.length_nil]; omega))
  refine ⟨dout, fresh, ?_⟩
  rw [hreq, runCommands_cons_of_ok (exec_txbegin_eq_underConstruction hid s) hw rfl, runCommands_append hrun hw rfl,
    List.nil_append]
  exact runCommands_cons_of_raise (exec_txpath_of_not_pathChar rfl hc) hw

/-- Settles O55: the path appended and sealed, or appended up to the character that raises. -/
theorem downloadRequestIsBuilt : Obligations.DownloadRequestIsBuilt := by
  unfold Obligations.DownloadRequestIsBuilt
  intro s id hw hid
  constructor
  · intro path hpath hfits
    obtain ⟨n, fresh, hrun⟩ := runCommands_reqDownload hw hid hpath hfits
    exact ⟨_, hrun, retLength_rc _ _, retLength_txst _ _, retLength_txbuf _ _, retLength_trace _ _⟩
  · intro path rest c hpath hc hfits
    obtain ⟨dout, fresh, hrun⟩ := runCommands_reqDownload_of_not_pathChar rest hw hid hpath hc hfits
    exact ⟨_, hrun, rfl, rfl, rfl, rfl⟩

theorem createFlag_le (offset : BitVec 32) : (createFlag offset).toNat ≤ 127 := by
  unfold createFlag
  split <;> decide

/-- The commands of an Upload request between TXBEGIN and TXEND (R100). -/
theorem appends_uploadBody (p : Params) {path : Bytes} (hpath : ∀ c ∈ path, 1 ≤ c.toNat ∧ c.toNat ≤ 127)
    (offset : BitVec 32) (chunk : Bytes) :
    Appends ([.txbyte (byteOf7 p.catFile), .txbyte Config.opUpload] ++ txStr path ++
        [.txbyte Config.pathTerm, .txbyte (createFlag offset)] ++ [.txint offset] ++
        [.txint (BitVec.ofNat 32 chunk.length)] ++ txData chunk)
      (uploadBody p path offset chunk) :=
  have hstart := (appends_marker_opcode p.catFile (op := Config.opUpload) (by decide)).append (appends_txStr hpath)
  have hterm := (appends_txbyte (b := Config.pathTerm) (by decide)).append (appends_txbyte (createFlag_le offset))
  (((hstart.append hterm).append (appends_txint offset)).append (appends_txint _)).append (appends_txData chunk)

@[simp] theorem length_packInteger (v : BitVec 32) : (packInteger v).length = 5 := rfl

@[simp] theorem length_uploadBody (p : Params) (path : Bytes) (offset : BitVec 32) (chunk : Bytes) :
    (uploadBody p path offset chunk).length = 14 + path.length + 2 * chunk.length := by
  simp only [uploadBody, List.length_append, length_packInteger, length_nibbleEncodeAll, List.length_cons,
    List.length_nil]
  omega

/-- Settles O56: the appends of each part of the body in turn, sealed. -/
theorem uploadRequestIsBuilt : Obligations.UploadRequestIsBuilt := by
  unfold Obligations.UploadRequestIsBuilt
  intro s id path chunk offset hw hid hpath _ hfits
  obtain ⟨fresh, hrun⟩ := runCommands_request (appends_uploadBody s.params hpath offset chunk)
    (by rw [length_uploadBody]; omega) hw hid (by rw [length_uploadBody]; exact hfits.mono (by omega))
  have hreq : reqUpload s.params id path offset chunk = .txbegin id ::
      (([.txbyte (byteOf7 s.params.catFile), .txbyte Config.opUpload] ++ txStr path ++
        [.txbyte Config.pathTerm, .txbyte (createFlag offset)] ++ [.txint offset] ++
        [.txint (BitVec.ofNat 32 chunk.length)] ++ txData chunk) ++ [.txend]) := by
    simp [reqUpload]
  rw [hreq]
  refine ⟨_, hrun, retLength_rc _ _, retLength_txst _ _, ⟨_, rfl, retLength_txbuf _ _⟩, ?_, retLength_trace _ _⟩
  rw [retLength_txbuf, withSealed, length_builtMessage, length_uploadBody]
  omega

end Sys2Proof.Machine
end

section
/-! File transfer by the host: the chunks of an upload and the download of a file (45_host_sequences.md R101, R102). -/

namespace Sys2Proof.Machine

/-! ## Chunks (R102) -/

/-- The first `n` pieces of one size, joined, are the front of the data. -/
theorem flatten_pieces (data : Bytes) (size n : Nat) :
    ((List.range n).map fun c => (data.drop (size * c)).take size).flatten = data.take (size * n) := by
  induction n with
  | zero => simp
  | succ n ih =>
    rw [List.range_succ, List.map_append, List.flatten_append, ih, Nat.mul_succ, List.take_add]
    simp

@[simp] theorem length_chunks (data : Bytes) : (chunks data).length = (data.length + 511) / 512 := by
  simp [chunks, Config.chunkMax]

theorem flatten_chunks (data : Bytes) : ((chunks data).map Prod.snd).flatten = data := by
  rw [chunks, List.map_map]
  refine (flatten_pieces data Config.chunkMax _).trans (List.take_of_length_le ?_)
  simp only [Config.chunkMax]
  omega

/-- Chunk `k` stands at offset `512·k`, below the length. -/
theorem of_chunks_getElem? {data : Bytes} {k : Nat} {c : Nat × Bytes} (h : (chunks data)[k]? = some c) :
    512 * k < data.length ∧ c = (512 * k, (data.drop (512 * k)).take 512) := by
  obtain ⟨hk, rfl⟩ := List.getElem?_eq_some_iff.mp h
  rw [length_chunks] at hk
  exact ⟨by omega, by simp only [chunks, Config.chunkMax, List.getElem_map, List.getElem_range]⟩

/-- The create flag at a multiple of the chunk size that a packed integer holds (R56). -/
theorem createFlag_of_chunk {k : Nat} (h : 512 * k < 2 ^ 32) :
    createFlag (BitVec.ofNat 32 (512 * k)) = if k = 0 then 1 else 0 := by
  have hzero : BitVec.ofNat 32 (512 * k) = 0 ↔ k = 0 := by
    rw [← BitVec.toNat_inj, BitVec.toNat_ofNat, Nat.mod_eq_of_lt h]
    simp
  simp only [createFlag, hzero]
  rfl

/-- Settles O59: the pieces are the data's front, and one stands at each multiple of 512 below the length. -/
theorem chunksCoverTheData : Obligations.ChunksCoverTheData := by
  unfold Obligations.ChunksCoverTheData
  intro data
  refine ⟨flatten_chunks data, length_chunks data, fun k offset chunk hk => ?_, fun _ _ _ => rfl⟩
  obtain ⟨hlt, heq⟩ := of_chunks_getElem? hk
  cases heq
  have hlen : ((data.drop (512 * k)).take 512).length = min 512 (data.length - 512 * k) := by
    rw [List.length_take, List.length_drop]
  exact ⟨rfl, hlen, by omega, createFlag_of_chunk⟩

/-! ## The parts of a host program (R97) -/

theorem drive_of_runCommands {cmds : List Instr} {s t : State} (h : runCommands cmds s = .next t) :
    drive cmds s = t := by
  rw [drive, h]

/-- One command alone ends where it ends, with `OK` or with an error. -/
theorem drive_singleton {i : Instr} {s t : State} (h : runCommand i s = .next t) : drive [i] s = t := by
  refine drive_of_runCommands ?_
  rw [runCommands, h, onNext_next, runCommands, ite_self]

theorem drive_singleton_of_exec {i : Instr} {s t : State} (h : exec i s = .next t) (hw : t.waiting = false) :
    drive [i] s = t :=
  drive_singleton (runCommand_of_not_waiting h hw)

/-- The command is over and its result is `OK`. -/
structure EndedOk (s : State) : Prop where
  waiting : s.waiting = false
  rc : s.rc = 0

theorem andThen_of_endedOk {t : State} (h : EndedOk t) (next : State → HostReport × State) :
    andThen t next = next t := by
  obtain ⟨hw, hrc⟩ := h
  rw [andThen, hw, hrc]
  rfl

theorem endedOk_retLength {s : State} (hw : s.waiting = false) (n : Nat) : EndedOk (retLength n s) :=
  ⟨(retLength_waiting n s).trans hw, retLength_rc n s⟩

/-! ## Reading a file back (R101 step 5) -/

theorem exec_rdd_of_memRead {s : State} {idx : BitVec 32} {b : Byte} (hv : s.dvalid = true)
    (hb : memRead s.dbuf idx.toNat = some b) :
    exec (.rdd idx) s = .next { s with rc := 0, dout := 0#32 ++ b } := by
  rw [exec_rdd_of_decoded hv, readIndex_of_memRead hb]

/-- The byte of a read is the low lane of `DOUT` (R16). -/
theorem setWidth_zero_append_byte (b : Byte) : ((0#32 ++ b : Word40)).setWidth 8 = b := by
  rw [← setWidth_byte, BitVec.setWidth_setWidth_of_le b (by decide), BitVec.setWidth_eq]

/-- A read that ends with `OK` gives its byte, and the reading goes on. -/
theorem readBack_cons_of_ok {read : BitVec 32 → Instr} {k : Nat} {rest : List Nat} {s t : State}
    (h : drive [read (BitVec.ofNat 32 k)] s = t) (hrc : t.rc = 0) :
    readBack read (k :: rest) s =
      (t.dout.setWidth 8 :: (readBack read rest t).1, (readBack read rest t).2) := by
  rw [readBack, h]
  exact if_pos hrc

/-- Reading the decoded payload from an index to its end gives what stands there, and writes `DOUT` only. -/
theorem readBack_rdd {s : State} {k : Nat} {bs : Bytes} (hv : s.dvalid = true) (hw : s.waiting = false)
    (hrc : s.rc = 0) (hbound : k + bs.length ≤ 2 ^ 32) (hbs : s.dbuf.drop k = bs) :
    ∃ dout, readBack Instr.rdd (List.range' k bs.length) s = (bs, { s with rc := 0, dout := dout }) := by
  induction bs generalizing k s with
  | nil => exact ⟨s.dout, by rw [← hrc]; rfl⟩
  | cons b rest ih =>
    rw [List.length_cons] at hbound
    have hidx : (BitVec.ofNat 32 k).toNat = k := by
      rw [BitVec.toNat_ofNat, Nat.mod_eq_of_lt (by omega)]
    have hb : memRead s.dbuf (BitVec.ofNat 32 k).toNat = some b := by
      have hhead := congrArg List.head? hbs
      rwa [List.head?_drop, List.head?_cons, ← hidx] at hhead
    have hrest : s.dbuf.drop (k + 1) = rest := by
      rw [← List.tail_drop, hbs, List.tail_cons]
    have hread := drive_singleton_of_exec (exec_rdd_of_memRead hv hb) hw
    obtain ⟨dout, ih⟩ := ih (s := { s with rc := 0, dout := 0#32 ++ b }) hv hw rfl (by omega) hrest
    refine ⟨dout, ?_⟩
    rw [List.length_cons, List.range'_succ, readBack_cons_of_ok hread rfl, setWidth_zero_append_byte, ih]

/-! ## The exchange of a download (R101 steps 1 to 4) -/

/-- The request built and accepted by the channel (R54, R88; log entry 4). -/
theorem downloadRequest_sent {s : State} {id : Byte} {path : Bytes} {sends : List SendAnswer} (hw : s.waiting = false)
    (hid : id.toNat ≤ 127) (hpath : ∀ c ∈ path, 1 ≤ c.toNat ∧ c.toNat ≤ 127)
    (hfits : Fits s.params.txcap (10 + path.length)) (ha : s.sendAnswers = .ok :: sends) :
    ∃ built sent, drive (reqDownload s.params id path) s = built ∧ EndedOk built ∧
      drive [.txsend] built = sent ∧ EndedOk sent ∧ sent.params = s.params ∧ sent.sendAnswers = sends ∧
      sent.recvAnswers = s.recvAnswers ∧ sent.trace = s.trace ++ [.sent (downloadRequest s.params id path)] := by
  obtain ⟨n, fresh, hreq⟩ := runCommands_reqDownload hw hid hpath hfits
  have hlisted : (retLength n (withSealed s id (downloadBody s.params path) fresh)).sendAnswers = .ok :: sends :=
    (retLength_sendAnswers _ _).trans ha
  have hexec := exec_txsend_of_ok (retLength_txst _ _) (sendReply_of_cons hlisted)
  have hok := endedOk_retLength (s := withSealed s id (downloadBody s.params path) fresh) hw n
  refine ⟨_, _, drive_of_runCommands hreq, hok, drive_singleton_of_exec hexec ?_, endedOk_retLength ?_ _,
    ?_, ?_, ?_, ?_⟩
  · simp [withSealed, hw]
  · simp [withSealed, hw]
  · simp [withSealed]
  · rw [sendAsked_of_cons hlisted, retLength_sendAnswers]
    rfl
  · simp [withSealed]
  · simp [withSealed, downloadRequest]

/-- A listed message that fits is held, after any number of silences (R90; log entry 5). -/
theorem message_received {s : State} {k : Nat} {m : Bytes} {rest : List RecvAnswer}
    (ha : s.recvAnswers = List.replicate k .silent ++ .message m :: rest) (hfits : Fits s.params.rxcap m.length) :
    ∃ held, drive [.rxrecv] s = held ∧ EndedOk held ∧ held.rxvalid = true ∧ held.rxbuf = m ∧
      held.params = s.params ∧ held.sendAnswers = s.sendAnswers ∧ held.recvAnswers = rest ∧
      held.trace = s.trace ++ [.received m] := by
  have hanswer := receiveAnswer_message_of_fits (s := { s with recvAnswers := rest }) hfits
  have hrun := runCommand_rxrecv_silences k (.message m) rest s ha (by rw [hanswer, retLength_waiting]; rfl)
  refine ⟨_, drive_singleton (hrun.trans (congrArg _ hanswer)), endedOk_retLength rfl _, ?_⟩
  simp

/-- The header check and the decoding of a Download response held, and the file read back (R55, R80, R83). -/
theorem downloadResponse_read {s : State} {p : Params} {id cs : Byte} {file : Bytes} (hp : s.params = p)
    (hw : s.waiting = false) (hvalid : s.rxvalid = true) (hbuf : s.rxbuf = downloadResponse p id file cs)
    (hid : id.toNat ≤ 127) (hlen : file.length < 2 ^ 32) (hfits : Fits p.dcap file.length) :
    ∃ checked decoded dout, drive [.rxvalhdr id (byteOf7 p.catFile) Config.opDownload] s = checked ∧
      EndedOk checked ∧ drive [.rxdecode] checked = decoded ∧ EndedOk decoded ∧
      decoded.dout = BitVec.ofNat 40 file.length ∧
      readBack Instr.rdd (List.range file.length) decoded =
        (file, { s with rc := 0, dout := dout, dbuf := file, dvalid := true }) := by
  subst p
  obtain ⟨hhdr, _⟩ := downloadedFileRoundTrips s id cs file hvalid hbuf hid hfits
  obtain ⟨_, hdec⟩ := downloadedFileRoundTrips { s with rc := 0, dout := 1 } id cs file hvalid hbuf hid hfits
  rw [retLength_of_lt (by omega)] at hdec
  obtain ⟨dout, hread⟩ := readBack_rdd (k := 0) (bs := file)
    (s := { s with rc := 0, dout := BitVec.ofNat 40 file.length, dbuf := file, dvalid := true }) rfl hw rfl
    (by omega) rfl
  rw [← List.range_eq_range'] at hread
  exact ⟨_, _, dout, drive_singleton_of_exec hhdr hw, ⟨hw, rfl⟩, drive_singleton_of_exec hdec hw, ⟨hw, rfl⟩, rfl,
    hread⟩

/-- The length of a file that can be read back, as the host takes it from `DOUT` (R101 step 5, U7). -/
theorem readable_length {n : Nat} (h : n < 2 ^ 32) : min (BitVec.ofNat 40 n).toNat (2 ^ 32) = n := by
  rw [BitVec.toNat_ofNat, Nat.mod_eq_of_lt (by omega), Nat.min_eq_left (by omega)]

/-- Settles O60: the request built and handed over, the response held after the silences, and the file read from it. -/
theorem downloadReturnsTheFile : Obligations.DownloadReturnsTheFile := by
  unfold Obligations.DownloadReturnsTheFile
  intro s id cs path file silences sends rest hw hid hpath hlen htx hrx hd hsend hrecv
  obtain ⟨built, sent, hbuilt, hbuiltOk, hsent, hsentOk, hsentParams, hsentSends, hsentRecvs, hsentTrace⟩ :=
    downloadRequest_sent hw hid hpath htx hsend
  obtain ⟨held, hheld, hheldOk, hvalid, hbuf, hheldParams, hheldSends, hheldRecvs, hheldTrace⟩ :=
    message_received (hsentRecvs.trans hrecv) (by rw [hsentParams, length_downloadResponse]; exact hrx)
  have hheldWaiting := hheldOk.waiting
  obtain ⟨checked, decoded, dout, hchecked, hcheckedOk, hdecoded, hdecodedOk, hdout, hread⟩ :=
    downloadResponse_read (hheldParams.trans hsentParams) hheldWaiting hvalid hbuf hid hlen hd
  refine ⟨{ held with rc := 0, dout := dout, dbuf := file, dvalid := true }, ?_, rfl, hheldWaiting,
    hheldSends.trans hsentSends, hheldRecvs, ?_⟩
  · have hmatches : checked.rc ≠ ErrKind.protocolMismatch.code := by rw [hcheckedOk.rc]; decide
    rw [download, hbuilt, andThen_of_endedOk hbuiltOk, hsent, andThen_of_endedOk hsentOk, hheld,
      andThen_of_endedOk hheldOk, hchecked]
    simp only [if_neg hmatches, andThen_of_endedOk hcheckedOk, hdecoded, andThen_of_endedOk hdecodedOk, hdout,
      readable_length hlen, hread]
  · rw [hheldTrace, hsentTrace, List.append_assoc]
    rfl

end Sys2Proof.Machine
end

section
/-! How a command ends with an error (60_exceptions.md R120, R126 to R132). The order of checks of R129 is said once: the
state first (`exec_of_sequenceCause`), then the operands (`exec_of_rangeCause`), then the rest (`exec_pastChecks`). Which
command ends with which error is read off that order (`endsWith_cases`). -/

namespace Sys2Proof.Machine

/-! ## The codes of the errors (R120, R126) -/

/-- The error kinds in the order of the table of R120. -/
def errKindTable : List ErrKind :=
  [.protocolMismatch, .formatError, .ioError, .timeout, .sequenceError, .rangeError, .illegalCommand, .overflow]

/-- An error is found in the table under its code, the first one under 1. -/
theorem errKindTable_code (e : ErrKind) : errKindTable[e.code.toNat - 1]? = some e := by
  cases e <;> rfl

theorem ErrKind.code_injective : Function.Injective ErrKind.code := by
  intro e k hcode
  have hfound : some e = some k := by rw [← errKindTable_code e, hcode, errKindTable_code k]
  exact Option.some.inj hfound

/-- Settles O10: the frame is the definition of `raise`, and the flags are those of `setFlag`. -/
theorem raiseWritesCodeAndFlagOnly : Obligations.RaiseWritesCodeAndFlagOnly := by
  unfold Obligations.RaiseWritesCodeAndFlagOnly
  exact fun e s => ⟨rfl, fun j _ => getLsbD_setFlag s.err e j, rfl⟩

/-! ## The first check: the state of the block (R127, R129) -/

/-- A listed cause of `SequenceError` comes before everything else. -/
theorem exec_of_sequenceCause {i : Instr} {s : State} (h : SequenceCause i s) :
    exec i s = .next (raise .sequenceError s) := by
  cases i with
  | txbyte | txpath | txint | txnib | txck => exact exec_of_not_open rfl h
  | txend =>
    by_cases hp : s.txst = .opened
    · exact exec_txend_of_short hp (h.resolve_left (not_not.mpr hp))
    · exact exec_of_not_open rfl hp
  | txsend => exact exec_txsend_of_not_sealed h
  | rxvalhdr | rxack | rxchk | rxdecode | rdrx => exact exec_of_not_received rfl h
  | rdd idx => exact exec_rdd_of_not_decoded h idx
  | _ => cases h

/-! ## The second check: the operands (R129, R130) -/

/-- A listed cause of `RangeError` comes next, when the state allows the command. -/
theorem exec_of_rangeCause {i : Instr} {s : State} (hseq : ¬ SequenceCause i s) (h : RangeCause i s) :
    exec i s = .next (raise .rangeError s) := by
  cases i with
  | rdlen sel => exact exec_rdlen_of_gt h s
  | nibdec hi lo => rw [exec, execNibdec, nibbleDecode_of_lt hi lo h, endRaise_eq]
  | unpack d4 d3 d2 d1 d0 => rw [exec, execUnpack, unpackInteger_of_lt h, endRaise_eq]
  | txbegin id => exact if_neg (by rw [sevenBitSafe_iff]; exact Nat.not_le.mpr h)
  | txbyte b => exact exec_txbyte_of_gt (not_not.mp hseq) h
  | rdtx idx => exact readIndex_of_le h s
  | rxvalhdr id cat op =>
    rw [exec, execRxvalhdr, ite_not_valid (eq_true_of_ne_false hseq), if_pos (not_expectedInDomain h), endRaise_eq]
  | rxack id cat op =>
    rw [exec, execRxack, ite_not_valid (eq_true_of_ne_false hseq), if_pos (not_expectedInDomain h), endRaise_eq]
  | rdrx idx => rw [exec_rdrx_of_received (eq_true_of_ne_false hseq), readIndex_of_le h]
  | rdd idx => rw [exec_rdd_of_decoded (eq_true_of_ne_false hseq), readIndex_of_le h]
  | _ => cases h

/-! ## Past both checks (R129, R132) -/

/-- No buffer has a capacity (00_scope.md R6). -/
def Unbounded (p : Params) : Prop := p.txcap = none ∧ p.rxcap = none ∧ p.dcap = none

/-- The errors that a command can still end with when the state and the operands are right: those of the bytes and of the
channel, and `Overflow` where a capacity is configured (R129, R132). -/
def RaisedLate (p : Params) (e : ErrKind) : Prop :=
  match e with
  | .protocolMismatch => True
  | .formatError => True
  | .ioError => True
  | .timeout => True
  | .sequenceError => False
  | .rangeError => False
  | .illegalCommand => False
  | .overflow => ¬ Unbounded p

/-- The outcomes of a command past both checks: it completes, it ends with a late error, or it is an RXRECV left waiting. -/
inductive PastChecks (i : Instr) (p : Params) : Host.Outcome State Fault Refusal → Prop where
  | completed (t : State) (hrc : t.rc = 0) : PastChecks i p (.next t)
  | raised (e : ErrKind) (t : State) (he : RaisedLate p e) : PastChecks i p (.next (raise e t))
  | waits (t : State) (hi : i = .rxrecv) : PastChecks i p (.next (keepWaiting t))

/-- Without a capacity everything fits (R6). -/
theorem fits_none (n : Nat) : Fits none n := fun _ h => nomatch h

section
variable {i : Instr} {p : Params}

theorem pastChecks_ret (v : Word40) (s : State) : PastChecks i p (.next (ret v s)) := .completed _ rfl

theorem pastChecks_retLength (n : Nat) (s : State) : PastChecks i p (.next (retLength n s)) :=
  .completed _ (retLength_rc n s)

theorem pastChecks_ite {c : Prop} [Decidable c] {o o' : Host.Outcome State Fault Refusal} (h : PastChecks i p o)
    (h' : PastChecks i p o') : PastChecks i p (if c then o else o') := by
  split
  · exact h
  · exact h'

end

/-- An append completes, or does not fit `TXCAP` (R79, R132). -/
theorem pastChecks_appendAndReturn (i : Instr) (bs : Bytes) (s : State) :
    PastChecks i s.params (appendAndReturn bs s) := by
  rcases appendAndReturn_cases bs s with ⟨hfits, heq⟩ | ⟨_, heq⟩ <;> rw [heq]
  · exact .raised _ _ fun ⟨htx, _, _⟩ => hfits (htx ▸ fits_none _)
  · exact pastChecks_retLength _ _

/-- A read below the length completes (20_memory.md R33). -/
theorem pastChecks_readIndex (i : Instr) {buf : Bytes} {idx : BitVec 32} (h : ¬ buf.length ≤ idx.toNat) (s : State) :
    PastChecks i s.params (readIndex buf idx s) := by
  rcases readIndex_cases buf idx s with ⟨hle, _⟩ | ⟨b, _, heq⟩
  · exact absurd hle h
  · rw [heq]; exact pastChecks_ret _ _

/-- An answer of the channel is no cause of an early error, and a message that overflows does not fit `RXCAP` (R123, R124,
R132). -/
theorem pastChecks_receiveAnswer (a : RecvAnswer) (s : State) :
    PastChecks .rxrecv s.params (.next (receiveAnswer a s)) := by
  rcases receiveAnswer_cases a s with ⟨h, _⟩ | ⟨_, h⟩ | ⟨_, _, h⟩ | ⟨m, _, ⟨_, h⟩ | ⟨hfits, h⟩⟩ <;> rw [h]
  · exact .waits _ rfl
  · exact .raised _ _ trivial
  · exact .raised _ _ trivial
  · exact pastChecks_retLength _ _
  · exact .raised _ _ fun ⟨_, hrx, _⟩ => hfits (hrx ▸ fits_none _)

/-- A held message does not decode, or its data fit `DCAP` or not (42_rx_validator.md R83, R132). -/
theorem pastChecks_rxdecode {s : State} (hv : s.rxvalid = true) : PastChecks .rxdecode s.params (exec .rxdecode s) := by
  by_cases hl : s.rxbuf.length < 11
  · rw [exec_rxdecode_of_short hv hl]
    exact .raised _ _ trivial
  have h11 := Nat.not_lt.mp hl
  cases hdec : nibbleDecodeAll (payload s.rxbuf) with
  | none =>
    rw [exec_rxdecode_of_not_decodes hv h11 hdec]
    exact .raised _ _ trivial
  | some bs =>
    by_cases hfits : Fits s.params.dcap bs.length
    · rw [exec, execRxdecode_of_decodes hv h11 hdec hfits]
      exact pastChecks_retLength _ _
    · rw [exec_rxdecode_of_not_fits hv h11 hdec hfits]
      exact .raised _ _ fun ⟨_, _, hd⟩ => hfits (hd ▸ fits_none _)

/-- When the state allows the command and its operands are in their domains, only a late error is left (R129). -/
theorem exec_pastChecks {i : Instr} {s : State} (hseq : ¬ SequenceCause i s) (hrange : ¬ RangeCause i s) :
    PastChecks i s.params (exec i s) := by
  cases i with
  | reset | clrerr | rdstat | nibenc | pack => exact pastChecks_ret _ _
  | rdlen sel =>
    have hsel : sel.toNat ≤ 2 := Nat.not_lt.mp hrange
    obtain heq | heq | heq : sel.toNat = 0 ∨ sel.toNat = 1 ∨ sel.toNat = 2 := by omega
    all_goals
      rw [exec, execRdlen, heq]
      exact pastChecks_retLength _ _
  | nibdec hi lo =>
    obtain ⟨hhi, hlo⟩ := not_or.mp hrange
    rw [exec, execNibdec, nibbleDecode_of_le hi lo (Nat.not_lt.mp hhi) (Nat.not_lt.mp hlo)]
    exact pastChecks_ret _ _
  | unpack d4 d3 d2 d1 d0 =>
    simp only [RangeCause, not_or, Nat.not_lt] at hrange
    obtain ⟨h4, h3, h2, h1, h0⟩ := hrange
    rw [exec, execUnpack, unpackInteger_of_le h4 h3 h2 h1 h0]
    exact pastChecks_ret _ _
  | txbegin id =>
    rw [exec, execTxbegin, if_pos ((sevenBitSafe_iff id).mpr (Nat.not_lt.mp hrange))]
    exact pastChecks_ret _ _
  | txbyte b =>
    rw [exec_txbyte_of_le (not_not.mp hseq) (Nat.not_lt.mp hrange)]
    exact pastChecks_appendAndReturn _ _ s
  | txpath c =>
    rw [exec, execTxpath, ite_not_open (not_not.mp hseq)]
    exact pastChecks_ite (pastChecks_appendAndReturn _ _ s) (.raised _ _ trivial)
  | txint v =>
    rw [exec_txint_of_open (not_not.mp hseq)]
    exact pastChecks_appendAndReturn _ _ s
  | txnib b =>
    rw [exec_txnib_of_open (not_not.mp hseq)]
    exact pastChecks_appendAndReturn _ _ s
  | txck =>
    rw [exec_txck_of_open (not_not.mp hseq)]
    exact pastChecks_ret _ _
  | txend =>
    obtain ⟨hp, hl⟩ := not_or.mp hseq
    rw [exec_txend_of_open (not_not.mp hp) (Nat.not_lt.mp hl)]
    exact pastChecks_retLength _ _
  | txsend =>
    rcases execTxsend_cases s with ⟨hp, _⟩ | ⟨_, _, heq⟩ | ⟨_, _, heq⟩
    · exact absurd hp hseq
    · rw [exec, heq]; exact .raised _ _ trivial
    · rw [exec, heq]; exact pastChecks_retLength _ _
  | rdtx idx => exact pastChecks_readIndex _ hrange s
  | rxrecv =>
    rcases execRxrecv_cases s with ⟨_, heq⟩ | ⟨a, rest, _, heq⟩ <;> rw [exec, heq]
    · exact .waits _ rfl
    · exact pastChecks_receiveAnswer a { s with recvAnswers := rest }
  | rxvalhdr id cat op =>
    simp only [RangeCause, not_or, Nat.not_lt] at hrange
    rw [exec_rxvalhdr_of_expected (eq_true_of_ne_false hseq) ((expectedInDomain_iff id cat op).mpr hrange)]
    exact pastChecks_ite (pastChecks_ret _ _) (.raised _ _ trivial)
  | rxack id cat op =>
    simp only [RangeCause, not_or, Nat.not_lt] at hrange
    rw [exec_rxack_of_expected (eq_true_of_ne_false hseq) ((expectedInDomain_iff id cat op).mpr hrange)]
    exact pastChecks_ite (pastChecks_ret _ _) (.raised _ _ trivial)
  | rxchk =>
    rw [exec_rxchk_of_received (eq_true_of_ne_false hseq)]
    exact pastChecks_ret _ _
  | rxdecode => exact pastChecks_rxdecode (eq_true_of_ne_false hseq)
  | rdrx idx =>
    rw [exec_rdrx_of_received (eq_true_of_ne_false hseq)]
    exact pastChecks_readIndex _ hrange s
  | rdd idx =>
    rw [exec_rdd_of_decoded (eq_true_of_ne_false hseq)]
    exact pastChecks_readIndex _ hrange s

/-! ## Which error a command ends with -/

section
variable {i : Instr} {s : State} {e : ErrKind}

theorem EndsWith.eq_of_raise {k : ErrKind} {u : State} (h : EndsWith i s e) (hexec : exec i s = .next (raise k u)) :
    e = k := by
  obtain ⟨t, ht, _, hrc⟩ := h
  rw [hexec] at ht
  cases ht
  exact ErrKind.code_injective hrc.symm

theorem EndsWith.raisedLate {p : Params} (h : EndsWith i s e) (hpast : PastChecks i p (exec i s)) :
    RaisedLate p e := by
  obtain ⟨t, ht, hw, hrc⟩ := h
  rw [ht] at hpast
  cases hpast with
  | completed _ hzero => exact absurd (hrc.symm.trans hzero) (errKind_code_ne_zero e)
  | raised k u hk => exact ErrKind.code_injective hrc ▸ hk
  | waits u hi => cases hw hi

/-- The error of a command by the first check it fails (R129). -/
theorem endsWith_cases (h : EndsWith i s e) :
    (e = .sequenceError ∧ SequenceCause i s) ∨
    (e = .rangeError ∧ RangeCause i s ∧ ¬ SequenceCause i s) ∨
    RaisedLate s.params e := by
  by_cases hseq : SequenceCause i s
  · exact .inl ⟨h.eq_of_raise (exec_of_sequenceCause hseq), hseq⟩
  by_cases hrange : RangeCause i s
  · exact .inr (.inl ⟨h.eq_of_raise (exec_of_rangeCause hseq hrange), hrange, hseq⟩)
  · exact .inr (.inr (h.raisedLate (exec_pastChecks hseq hrange)))

/-- A command that raises an error ends with it; RXRECV is left out, since the block could have been waiting before. -/
theorem endsWith_of_raise (hexec : exec i s = .next (raise e s)) (hi : i ≠ .rxrecv) : EndsWith i s e :=
  ⟨raise e s, hexec, fun hrecv => absurd hrecv hi, rfl⟩

end

/-- Settles O50: the check of the state comes first, and no other error has the code of `SequenceError`. -/
theorem sequenceErrorHasTheListedCauses : Obligations.SequenceErrorHasTheListedCauses := by
  unfold Obligations.SequenceErrorHasTheListedCauses
  intro i s
  constructor
  · intro h
    rcases endsWith_cases h with ⟨_, hcause⟩ | ⟨hcode, _⟩ | hlate
    · exact hcause
    · cases hcode
    · exact hlate.elim
  · intro hcause
    refine endsWith_of_raise (exec_of_sequenceCause hcause) ?_
    rintro rfl
    exact hcause

/-- Settles O51: the check of the operands comes second, and no other error has the code of `RangeError`. -/
theorem rangeErrorHasTheListedCauses : Obligations.RangeErrorHasTheListedCauses := by
  unfold Obligations.RangeErrorHasTheListedCauses
  intro i s
  constructor
  · intro h
    rcases endsWith_cases h with ⟨hcode, _⟩ | ⟨_, hcauses⟩ | hlate
    · cases hcode
    · exact hcauses
    · exact hlate.elim
  · rintro ⟨hcause, hseq⟩
    refine endsWith_of_raise (exec_of_rangeCause hseq hcause) ?_
    rintro rfl
    exact hcause

/-- Settles O52: `Overflow` is a late error, and a late one only where a capacity is configured. -/
theorem overflowNeedsACapacity : Obligations.OverflowNeedsACapacity := by
  unfold Obligations.OverflowNeedsACapacity
  intro i s htx hrx hd h
  rcases endsWith_cases h with ⟨hcode, _⟩ | ⟨hcode, _⟩ | hlate
  · cases hcode
  · cases hcode
  · exact hlate ⟨htx, hrx, hd⟩

/-! ## Illegal words (R128) -/

/-- No command ends with `IllegalCommand`: the decoder alone raises it. -/
theorem not_endsWith_illegalCommand (i : Instr) (s : State) : ¬ EndsWith i s .illegalCommand := by
  intro h
  rcases endsWith_cases h with ⟨hcode, _⟩ | ⟨hcode, _⟩ | hlate
  · cases hcode
  · cases hcode
  · exact hlate

/-- Settles O5: a word of no row does not decode and is raised as it stands, and a word of a row runs its command. -/
theorem illegalWordsRaiseAndChangeNothingElse : Obligations.IllegalWordsRaiseAndChangeNothingElse := by
  unfold Obligations.IllegalWordsRaiseAndChangeNothingElse
  intro w s
  obtain ⟨hillegal, hlegal⟩ := legalWordsAreTheTableRows w
  constructor
  · intro hnone
    obtain ⟨why, hdec⟩ := hillegal hnone
    rw [issue, hdec]
    rfl
  · intro hrow t hissue hw hrc
    obtain ⟨r, hr⟩ := Option.ne_none_iff_exists'.mp hrow
    obtain ⟨i, hdec, _⟩ := hlegal r hr
    rw [issue, hdec] at hissue
    refine not_endsWith_illegalCommand i s ⟨t, hissue, ?_, hrc⟩
    rintro rfl
    exact hw hdec

end Sys2Proof.Machine
end

section
/-! Nothing faults and nothing is refused (93_implementation_defined.md section 1): every command on every state, the
decoder on every word and every step give a next state. For a command this is read off the order of checks of R129. -/

namespace Sys2Proof.Machine

/-- Past both checks a command completes, ends with a late error or waits: a next state in each case. -/
theorem PastChecks.exists_next {i : Instr} {p : Params} {o : Host.Outcome State Fault Refusal} (h : PastChecks i p o) :
    ∃ t, o = .next t := by
  cases h with
  | completed t _ => exact ⟨t, rfl⟩
  | raised e t _ => exact ⟨raise e t, rfl⟩
  | waits t _ => exact ⟨keepWaiting t, rfl⟩

/-- A command fails the check of the state, fails that of its operands, or is past both. -/
theorem exec_exists_next (i : Instr) (s : State) : ∃ t, exec i s = .next t := by
  by_cases hseq : SequenceCause i s
  · exact ⟨_, exec_of_sequenceCause hseq⟩
  by_cases hrange : RangeCause i s
  · exact ⟨_, exec_of_rangeCause hseq hrange⟩
  exact (exec_pastChecks hseq hrange).exists_next

/-- A word is taken as its command, or as an illegal word, which is an error and not a stop (R43, R128). -/
theorem issue_exists_next (w : CommandWord) (s : State) : ∃ t, issue w s = .next t := by
  rcases issue_cases w s with ⟨i, _, hissue⟩ | ⟨_, _, hissue⟩ <;> rw [hissue]
  · exact exec_exists_next i s
  · exact ⟨_, rfl⟩

/-- The hardware reset input, a word, an RXRECV in progress and an idle block each give a next state (R140, R142; log
entries 6, 10). -/
theorem step_exists_next (s : State) : ∃ t, step s = .next t := by
  rcases step_cases s with ⟨_, _, hstep⟩ | ⟨w, rest, _, _, hstep⟩ | ⟨_, _, hstep⟩ | ⟨_, _, hstep⟩ <;> rw [hstep]
  · exact ⟨_, rfl⟩
  · exact issue_exists_next w { s with inputs := rest }
  · exact exec_exists_next .rxrecv s
  · exact ⟨s, rfl⟩

/-- Settles O9: for a command by the order of checks of R129, for a step by what it is about. -/
theorem everyStepGivesANextState : Obligations.EveryStepGivesANextState := by
  unfold Obligations.EveryStepGivesANextState
  exact ⟨exec_exists_next, step_exists_next⟩

end Sys2Proof.Machine
end
